-- ==== Sys2Proof/Word.lean ====
section
/-!
DEFINITION. The widths of the WAE's values (00_scope.md R6, 20_memory.md R57) and the accumulator pair
(10_state.md R21). Nothing here rearranges bits: byte order lives in Decode and Machine/Operands.
-/

namespace Sys2Proof

/-- An unsigned 8-bit byte (R9). -/
abbrev Byte := BitVec 8

/-- An assembled word, a response and a digest: 32 bits (R6 WORD_BITS, R57). -/
abbrev Word := BitVec 32

/-- The seed and the seed port (R26, R55). -/
abbrev Seed := BitVec 64

/-- The running byte count, mod 2^64 (R25). -/
abbrev Len := BitVec 64

/-- One command word on the command port (R72). -/
abbrev CmdWord := BitVec 40

/-- The accumulator `acc = (acc0, acc1)`; both words always exist (R21). -/
structure Acc where
  acc0 : Word
  acc1 : Word
  deriving DecidableEq, Repr, Inhabited

end Sys2Proof
end

