-- ==== Sys2Proof/Config.lean ====
section
/-!
DEFINITION. What an implementation fixes (00_scope.md R6) and the values the spec leaves open.
A constant declared `opaque` has no body: no proof can learn a value of it.
-/

namespace Sys2Proof

/-- A mixer as the block sees it: the four combinational port functions of 30_encoding.md R76. Accumulators
travel packed as `acc1` above `acc0` (10_state.md R35). The R190 functions INIT, UPD, PFIN and AVAL are read off these
ports in Machine/Plugin.lean. -/
structure Mixer where
  /-- `init_seed_o ↦ init_acc_i` -/
  initAccI : BitVec 64 → BitVec 64
  /-- `upd_acc_o, upd_word_o ↦ upd_acc_i` -/
  updAccI : BitVec 64 → BitVec 32 → BitVec 64
  /-- `pf_acc_o, pf_tail_o, pf_cnt_o, pf_len_o ↦ pf_acc_i` -/
  pfAccI : BitVec 64 → BitVec 24 → BitVec 2 → BitVec 64 → BitVec 64
  /-- `av_acc_o, av_len_o ↦ av_digest_i` -/
  avDigestI : BitVec 64 → BitVec 64 → BitVec 32

/-- OPEN parameter INIT (R6, D30), as the mixer's port function. Log entry 5. -/
opaque Config.initAccI : BitVec 64 → BitVec 64

/-- OPEN parameter UPD (R6, D30), as the mixer's port function. Log entry 5. -/
opaque Config.updAccI : BitVec 64 → BitVec 32 → BitVec 64

/-- OPEN parameter PFIN (R6, D30), as the mixer's port function. Log entry 5. -/
opaque Config.pfAccI : BitVec 64 → BitVec 24 → BitVec 2 → BitVec 64 → BitVec 64

/-- OPEN parameter AVAL (R6, D30), as the mixer's port function. Log entry 5. -/
opaque Config.avDigestI : BitVec 64 → BitVec 64 → BitVec 32

/-- The mixer this machine is connected to: any four functions (R195). -/
def Config.mixer : Mixer where
  initAccI := Config.initAccI
  updAccI := Config.updAccI
  pfAccI := Config.pfAccI
  avDigestI := Config.avDigestI

/-- The level on seed_i at the release of rst_ni that leads to `State.reset`: the host's choice, which the spec
does not give (R240; 91_not_in_source.md N16 forbids assuming 0). Log entry 4. -/
opaque Config.powerOnSeed : Seed

/-- What a pending byte holds once it is stale: no value the rules define (R24, 93 U2). The first argument is the
model's counter `staleCount`, the second the byte's index. Log entry 3. -/
opaque Config.staleByte : Nat → Nat → Byte

/-- BLOCK_SIZE, bytes per assembled word (R2, R6). -/
def Config.blockSize : Nat := 4

/-- OUTPUT_SIZE, digest bytes (R2, R6). -/
def Config.outputSize : Nat := 4

/-- PBUF_DEPTH, pending buffer bytes (R6). -/
def Config.pbufDepth : Nat := 3

/-- BEAT_BYTES, the most bytes one WRITE carries (R6). -/
def Config.beatBytes : Nat := 4

/-- ACC_WORDS, how many accumulator words a variant uses (R6): an argument of the contract of R198. -/
inductive AccWords where
  | one
  | two
  deriving DecidableEq, Repr

/-- PAIR_SEED_ORDER, which seed half initialises which accumulator word (R6, R191, D29): an argument of the
contract of R191. -/
inductive PairSeedOrder where
  | loFirst
  | hiFirst
  deriving DecidableEq, Repr

/-- How a variant uses its seed (R191): a fixed initial state, or the two halves in one of the two orders. -/
inductive Seeding where
  | unseeded
  | pairState (order : PairSeedOrder)
  deriving DecidableEq, Repr

/-- What a word-streaming instantiation fixes beside its four functions (R5, R197). -/
structure Variant where
  accWords : AccWords
  seeding : Seeding
  deriving DecidableEq, Repr

end Sys2Proof
end

