-- ==== Sys2Proof/Syntax.lean ====
section
/-!
DEFINITION. The commands, one constructor per row of spec/opcode_table.json (30_encoding.md R79), and the reasons a word
is no command (60_exceptions.md R213).
-/

namespace Sys2Proof

/-- The commands of R78 and R79. A WRITE row carries exactly its valid lanes, lane 0 (the earliest byte, R52) first, so
that a term of this type holds no lane that R80 requires to be zero. CONSTRUCT's operand is not in its word: it is the
level on seed_i (R73, R75). -/
inductive Instr where
  | construct
  | reset
  | writeNb0
  | writeNb1 (b0 : Byte)
  | writeNb2 (b0 b1 : Byte)
  | writeNb3 (b0 b1 b2 : Byte)
  | writeNb4 (b0 b1 b2 b3 : Byte)
  | digest
  | digestBe
  | info
  deriving DecidableEq, Repr

/-- Why a command word is illegal, in the order of R213. -/
inductive IllegalReason where
  | reservedOpcode
  | reservedBit
  | nbRange
  | nonzeroOperand
  | dirtyLane
  deriving DecidableEq, Repr

/-- The code of a reason (R213). -/
def IllegalReason.code : IllegalReason → Nat
  | .reservedOpcode => 1
  | .reservedBit => 2
  | .nbRange => 3
  | .nonzeroOperand => 4
  | .dirtyLane => 5

/-- What the total decoder answers (R83): one command, or `Illegal(reason)`. -/
inductive Decoded where
  | legal (i : Instr)
  | illegal (reason : IllegalReason)
  deriving DecidableEq, Repr

/-- The beat a command carries, `C = [lane(data, 0), ..., lane(data, nb-1)]` (R73); empty for a command that is not a
WRITE. -/
def Instr.beat : Instr → List Byte
  | .construct => []
  | .reset => []
  | .writeNb0 => []
  | .writeNb1 b0 => [b0]
  | .writeNb2 b0 b1 => [b0, b1]
  | .writeNb3 b0 b1 b2 => [b0, b1, b2]
  | .writeNb4 b0 b1 b2 b3 => [b0, b1, b2, b3]
  | .digest => []
  | .digestBe => []
  | .info => []

/-- The five rows of the assembler mnemonic WRITE (R79, R85). -/
def Instr.isWrite : Instr → Bool
  | .construct => false
  | .reset => false
  | .writeNb0 => true
  | .writeNb1 _ => true
  | .writeNb2 _ _ => true
  | .writeNb3 _ _ _ => true
  | .writeNb4 _ _ _ _ => true
  | .digest => false
  | .digestBe => false
  | .info => false

/-- The commands that produce a response (R74). -/
def Instr.responds : Instr → Bool
  | .construct => false
  | .reset => false
  | .writeNb0 => false
  | .writeNb1 _ => false
  | .writeNb2 _ _ => false
  | .writeNb3 _ _ _ => false
  | .writeNb4 _ _ _ _ => false
  | .digest => true
  | .digestBe => true
  | .info => true

/-- The WRITE of one beat, which carries at most four bytes (R82, R86). -/
def writeOf : List Byte → Option Instr
  | [] => some .writeNb0
  | [b0] => some (.writeNb1 b0)
  | [b0, b1] => some (.writeNb2 b0 b1)
  | [b0, b1, b2] => some (.writeNb3 b0 b1 b2)
  | [b0, b1, b2, b3] => some (.writeNb4 b0 b1 b2 b3)
  | _ => none

end Sys2Proof
end

