-- ==== Sys2Proof/WellFormed.lean ====
section
/-!
DEFINITION. What is well formed. Every term of `Instr` is a legal command, because its operands are exactly its row's
free bits; what can be ill formed is a command WORD (30_encoding.md R79 to R82) and the byte list of an assembler WRITE
(R86). Both checks are Bools.
-/

namespace Sys2Proof

/-- A row of the pattern table of R79. -/
structure Row where
  mnemonic : String
  value : CmdWord
  mask : CmdWord
  deriving DecidableEq, Repr

/-- `w` matches a row when `(w & mask) = match` (R79). -/
def Row.fits (r : Row) (w : CmdWord) : Bool := w &&& r.mask == r.value

def Row.construct : Row := ⟨"CONSTRUCT", 0x1000000000#40, 0xFFFFFFFFFF#40⟩
def Row.reset : Row := ⟨"RESET", 0x2000000000#40, 0xFFFFFFFFFF#40⟩
def Row.writeNb0 : Row := ⟨"WRITE.nb0", 0x3000000000#40, 0xFFFFFFFFFF#40⟩
def Row.writeNb1 : Row := ⟨"WRITE.nb1", 0x3100000000#40, 0xFFFFFFFF00#40⟩
def Row.writeNb2 : Row := ⟨"WRITE.nb2", 0x3200000000#40, 0xFFFFFF0000#40⟩
def Row.writeNb3 : Row := ⟨"WRITE.nb3", 0x3300000000#40, 0xFFFF000000#40⟩
def Row.writeNb4 : Row := ⟨"WRITE.nb4", 0x3400000000#40, 0xFF00000000#40⟩
def Row.digest : Row := ⟨"DIGEST", 0x4000000000#40, 0xFFFFFFFFFF#40⟩
def Row.digestBe : Row := ⟨"DIGEST_BE", 0x5000000000#40, 0xFFFFFFFFFF#40⟩
def Row.info : Row := ⟨"INFO", 0x6000000000#40, 0xFFFFFFFFFF#40⟩

/-- The rows of R79, as spec/opcode_table.json lists them. -/
def rows : List Row :=
  [.construct, .reset, .writeNb0, .writeNb1, .writeNb2, .writeNb3, .writeNb4, .digest, .digestBe, .info]

/-- A command word is legal when it matches exactly one row (R79). -/
def CmdWord.wf (w : CmdWord) : Bool := (rows.filter (·.fits w)).length == 1

/-- The row of a command. -/
def Instr.row : Instr → Row
  | .construct => .construct
  | .reset => .reset
  | .writeNb0 => .writeNb0
  | .writeNb1 _ => .writeNb1
  | .writeNb2 _ _ => .writeNb2
  | .writeNb3 _ _ _ => .writeNb3
  | .writeNb4 _ _ _ _ => .writeNb4
  | .digest => .digest
  | .digestBe => .digestBe
  | .info => .info

/-- The byte list of one WRITE beat: at most four bytes (R82, R86). -/
def Beat.wf (bytes : List Byte) : Bool := decide (bytes.length ≤ Config.beatBytes)

end Sys2Proof
end

