-- ==== Sys2Proof/Decode.lean ====
section
/-!
DEFINITION. Decoding a command word (30_encoding.md R72, R73, R79 to R84; 60_exceptions.md R213) and encoding a command
(R86). The fields are pulled out here and nowhere else.
-/

namespace Sys2Proof

/-- Bits [39:36] (R72). -/
def cmdOp (w : CmdWord) : BitVec 4 := w.extractLsb' 36 4

/-- Bit [35] (R72). -/
def cmdRsv (w : CmdWord) : BitVec 1 := w.extractLsb' 35 1

/-- Bits [34:32] (R72). -/
def cmdNb (w : CmdWord) : BitVec 3 := w.extractLsb' 32 3

/-- Bits [31:0] (R72). -/
def cmdData (w : CmdWord) : Word := w.extractLsb' 0 32

/-- `lane(d, k) = d[8k+7:8k]` (R12, R52). -/
def lane (d : Word) (k : Nat) : Byte := d.extractLsb' (8 * k) 8

/-- A command that has no operand in its word: `cmd[34:0]` must be zero (R80, R213 code 4). -/
def decodeBare (w : CmdWord) (i : Instr) : Decoded :=
  if w.extractLsb' 0 35 = 0#35 then .legal i else .illegal .nonzeroOperand

/-- The lanes at and above `nb` must be zero: `cmd[31:8·nb]` (R80, R213 code 5). -/
def decodeBeat (w : CmdWord) (nb : Nat) (i : Instr) : Decoded :=
  if cmdData w >>> (8 * nb) = 0#32 then .legal i else .illegal .dirtyLane

/-- A WRITE word whose opcode and reserved bit are right (R73, R80, R82). -/
def decodeWrite (w : CmdWord) : Decoded :=
  let d := cmdData w
  if cmdNb w = 0#3 then decodeBeat w 0 .writeNb0
  else if cmdNb w = 1#3 then decodeBeat w 1 (.writeNb1 (lane d 0))
  else if cmdNb w = 2#3 then decodeBeat w 2 (.writeNb2 (lane d 0) (lane d 1))
  else if cmdNb w = 3#3 then decodeBeat w 3 (.writeNb3 (lane d 0) (lane d 1) (lane d 2))
  else if cmdNb w = 4#3 then .legal (.writeNb4 (lane d 0) (lane d 1) (lane d 2) (lane d 3))
  else .illegal .nbRange

/-- The opcodes that R78 does not assign (R81): 0x0 and 0x7 to 0xF. -/
def opReserved (op : BitVec 4) : Bool := op == 0#4 || decide (7 ≤ op.toNat)

/-- The total decoder (R83): the one command a word stands for, or the first failing check of R213. -/
def decode (w : CmdWord) : Decoded :=
  if opReserved (cmdOp w) then .illegal .reservedOpcode
  else if cmdRsv w = 1#1 then .illegal .reservedBit
  else if cmdOp w = 1#4 then decodeBare w .construct
  else if cmdOp w = 2#4 then decodeBare w .reset
  else if cmdOp w = 3#4 then decodeWrite w
  else if cmdOp w = 4#4 then decodeBare w .digest
  else if cmdOp w = 5#4 then decodeBare w .digestBe
  else decodeBare w .info

/-- CMD40: the four fields in their places (R72). -/
def cmd40 (op : BitVec 4) (rsv : BitVec 1) (nb : BitVec 3) (data : Word) : CmdWord :=
  op ++ rsv ++ nb ++ data

/-- The data field of a beat: lane 0 lowest (R52). -/
def lanes (b0 b1 b2 b3 : Byte) : Word := b3 ++ b2 ++ b1 ++ b0

/-- The command word of a command; absent bytes are 0 (R86). -/
def encode : Instr → CmdWord
  | .construct => cmd40 1#4 0#1 0#3 0#32
  | .reset => cmd40 2#4 0#1 0#3 0#32
  | .writeNb0 => cmd40 3#4 0#1 0#3 0#32
  | .writeNb1 b0 => cmd40 3#4 0#1 1#3 (lanes b0 0#8 0#8 0#8)
  | .writeNb2 b0 b1 => cmd40 3#4 0#1 2#3 (lanes b0 b1 0#8 0#8)
  | .writeNb3 b0 b1 b2 => cmd40 3#4 0#1 3#3 (lanes b0 b1 b2 0#8)
  | .writeNb4 b0 b1 b2 b3 => cmd40 3#4 0#1 4#3 (lanes b0 b1 b2 b3)
  | .digest => cmd40 4#4 0#1 0#3 0#32
  | .digestBe => cmd40 5#4 0#1 0#3 0#32
  | .info => cmd40 6#4 0#1 0#3 0#32

/-- The command word whose low `nbits` bits are those of `w`. The table gives every row all 40 bits, bit 0 the least
significant (R8, R72). Log entry 10. -/
def tableWord (nbits w : Nat) : CmdWord := BitVec.ofNat 40 (w % 2 ^ nbits)

/-- What the decoder reads from a word given as the opcode table numbers its bits; a number that does not fit 40 bits is
no command word (R84). Log entry 10. -/
def decodeTableWord (nbits w : Nat) : Option Instr :=
  if w % 2 ^ nbits < 2 ^ 40 then
    match decode (tableWord nbits w) with
    | .legal i => some i
    | .illegal _ => none
  else none

end Sys2Proof
end

