-- ==== Sys2Proof/Machine/Operands.lean ====
section
/-!
DEFINITION. The byte and word forms of the data path: little-endian assembly (00_scope.md R10, 20_memory.md R53), the
big-endian serialization (R54, 41_digest.md R144, R145) and the pieces of a chunk (40_write.md R102).
-/

namespace Sys2Proof.Machine

/-- `LE32(b0, b1, b2, b3)`, `b0` the earliest byte (R10). -/
def le32 (b0 b1 b2 b3 : Byte) : Word :=
  b0.setWidth 32 ||| b1.setWidth 32 <<< 8 ||| b2.setWidth 32 <<< 16 ||| b3.setWidth 32 <<< 24

/-- `words(S)`: the complete words of a byte list, in stream order (10_state.md §2); up to three bytes at the end are
left out. -/
def wordsOf : List Byte → List Word
  | b0 :: b1 :: b2 :: b3 :: rest => le32 b0 b1 b2 b3 :: wordsOf rest
  | [] => []
  | [_] => []
  | [_, _] => []
  | [_, _, _] => []

/-- How many bytes of `bytes` fill whole words: `len - (len mod 4)` (10_state.md §2, `q`). -/
def wholeLen (bytes : List Byte) : Nat := bytes.length - bytes.length % 4

/-- The bytes after the last whole word: `drop(q, S)` (R27, R102 step 3). -/
def tailOf (bytes : List Byte) : List Byte := bytes.drop (wholeLen bytes)

/-- `bswap32(d) = {d[7:0], d[15:8], d[23:16], d[31:24]}` (R12). -/
def bswap32 (d : Word) : Word :=
  d.extractLsb' 0 8 ++ d.extractLsb' 8 8 ++ d.extractLsb' 16 8 ++ d.extractLsb' 24 8

/-- The big-endian serialization of a digest: most significant byte first (R54, R145). -/
def digestBytes (d : Word) : List Byte :=
  [d.extractLsb' 24 8, d.extractLsb' 16 8, d.extractLsb' 8 8, d.extractLsb' 0 8]

/-- INFO's response: `{16'h0000, OUTPUT_SIZE[7:0], BLOCK_SIZE[7:0]}` (R147). -/
def infoWord : Word := 0#16 ++ BitVec.ofNat 8 Config.outputSize ++ BitVec.ofNat 8 Config.blockSize

/-- `pf_tail_o`: byte j is `pbuf[j]` for the valid bytes and 0 above them (R76, R143). -/
def tailLanes (tail : List Byte) : BitVec 24 :=
  (tail[2]?.getD 0#8) ++ (tail[1]?.getD 0#8) ++ (tail[0]?.getD 0#8)

/-- The low half of a seed, `seed[31:0]` (R55). -/
def seedLow (s : Seed) : Word := s.extractLsb' 0 32

/-- The high half of a seed, `seed[63:32]` (R55). -/
def seedHigh (s : Seed) : Word := s.extractLsb' 32 32

/-- The two halves of a seed as an accumulator, in the order PAIR_SEED_ORDER names (R191). -/
def seedHalves : PairSeedOrder → Seed → Acc
  | .loFirst, s => ⟨seedLow s, seedHigh s⟩
  | .hiFirst, s => ⟨seedHigh s, seedLow s⟩

end Sys2Proof.Machine
end

