-- ==== Sys2Proof/Machine/Plugin.lean ====
section
/-!
DEFINITION. The plug-in functions of 43_plugin_interface.md R190 as the engine calls them through the mixer's ports
(30_encoding.md R76), and the contracts a plug-in set may claim (R191, R196, R198). The engine assumes no contract (R195).
-/

namespace Sys2Proof

open Sys2Proof.Machine

/-- `{acc1, acc0}` (10_state.md R35). -/
def Acc.pack (a : Acc) : BitVec 64 := a.acc1 ++ a.acc0

/-- The accumulator a mixer port carries (10_state.md R35). -/
def Acc.unpack (v : BitVec 64) : Acc := ⟨v.extractLsb' 0 32, v.extractLsb' 32 32⟩

/-- INIT(s) (R190): `init_seed_o = s`, `init_acc_i = INIT(s)` (R76). -/
def Mixer.init (m : Mixer) (s : Seed) : Acc := Acc.unpack (m.initAccI s)

/-- UPD(a, w) (R190): `upd_acc_o`, `upd_word_o` to `upd_acc_i` (R76). -/
def Mixer.upd (m : Mixer) (a : Acc) (w : Word) : Acc := Acc.unpack (m.updAccI a.pack w)

/-- PFIN(a, T, L) (R190): the ports carry the valid bytes, their count and the length (R76, R143). -/
def Mixer.pfin (m : Mixer) (a : Acc) (tail : List Byte) (len : Len) : Acc :=
  Acc.unpack (m.pfAccI a.pack (tailLanes tail) (BitVec.ofNat 2 tail.length) len)

/-- AVAL(a, L) (R190): `av_acc_o`, `av_len_o` to `av_digest_i` (R76). -/
def Mixer.aval (m : Mixer) (a : Acc) (len : Len) : Word := m.avDigestI a.pack len

/-- `AVAL(PFIN(a, T, L), L)`: what finalization computes from a snapshot (41_digest.md R141). -/
def Mixer.finalize (m : Mixer) (a : Acc) (tail : List Byte) (len : Len) : Word :=
  m.aval (m.pfin a tail len) len

/-- The digest of the empty stream, `E = AVAL(PFIN(INIT(seed), [], 0), 0)` (R150, R196). -/
def Mixer.emptyDigest (m : Mixer) (s : Seed) : Word := m.finalize (m.init s) [] 0

/-- The digest of a stream in closed form (41_digest.md R149). -/
def Mixer.digestOf (m : Mixer) (seed : Seed) (stream : List Byte) : Word :=
  m.finalize ((wordsOf stream).foldl m.upd (m.init seed)) (tailOf stream) (BitVec.ofNat 64 stream.length)

/-- A variant's use of the seed (R191). -/
def Mixer.SeedContract (m : Mixer) : Seeding → Prop
  | .unseeded => ∀ s s' : Seed, m.init s = m.init s'
  | .pairState order => ∀ s : Seed, m.init s = seedHalves order s

/-- What ACC_WORDS asks of a plug-in set (R198): a one-word variant returns `acc1` as it got it and never reads it. -/
def Mixer.WordContract (m : Mixer) : AccWords → Prop
  | .one =>
      (∀ s s' : Seed, (m.init s).acc1 = (m.init s').acc1) ∧
      (∀ (a : Acc) (w : Word), (m.upd a w).acc1 = a.acc1) ∧
      (∀ (a : Acc) (t : List Byte) (l : Len), t.length ≤ Config.pbufDepth → (m.pfin a t l).acc1 = a.acc1) ∧
      (∀ (a a' : Acc) (w : Word), a.acc0 = a'.acc0 → (m.upd a w).acc0 = (m.upd a' w).acc0) ∧
      (∀ (a a' : Acc) (t : List Byte) (l : Len), t.length ≤ Config.pbufDepth → a.acc0 = a'.acc0 →
        (m.pfin a t l).acc0 = (m.pfin a' t l).acc0) ∧
      (∀ (a a' : Acc) (l : Len), a.acc0 = a'.acc0 → m.aval a l = m.aval a' l)
  | .two => True

/-- A plug-in set that is an instantiation of this variant (R191, R198). -/
def Mixer.Implements (m : Mixer) (v : Variant) : Prop := m.SeedContract v.seeding ∧ m.WordContract v.accWords

/-- The empty-input property of the source's pair-state variant: the empty digest is never 0 (R196). An obligation on a
plug-in set that claims to be that variant, not a rule of the engine. -/
def Mixer.PairStateEmpty (m : Mixer) : Prop := ∀ s : Seed, m.emptyDigest s ≠ 0

/-- The empty-input property of the source's word-streaming variant that 'yields 0 for empty input before
length-mixing': PFIN of the empty stream is 0 in the word that variant uses (R196). An obligation on a plug-in set that claims
to be that variant, not a rule of the engine. -/
def Mixer.ZeroBeforeLength (m : Mixer) : Prop := ∀ s : Seed, (m.pfin (m.init s) [] 0).acc0 = 0

end Sys2Proof
end

