-- ==== Sys2Proof/Machine/State.lean ====
section
/-!
DEFINITION. The state of the machine: the registers of 10_state.md R20, the records of R33, the port levels that last from
one step to the next (30_encoding.md R70), and what the host will do. Plain data throughout.
-/

namespace Sys2Proof.Machine

/-- One thing the host does at the ports, in the order in which the transfers happen (log entry 2). -/
inductive HostEvent where
  /-- cmd_valid_i = 1 with this word on cmd_i and this level on seed_i while it is accepted (R71, R75). -/
  | command (cmd : CmdWord) (seedI : Seed)
  /-- rsp_ready_i = 1: the host takes the response that waits, if one does (R74). -/
  | takeResponse
  /-- rst_ni falls (R240, R242). -/
  | rstFall
  /-- rst_ni rises with this level on seed_i (R240). -/
  | rstRise (seedI : Seed)
  deriving DecidableEq, Repr

/-- The record of the fault mark: the reason and the 40-bit word (60_exceptions.md R212). -/
structure FaultRecord where
  reason : IllegalReason
  word : CmdWord
  deriving DecidableEq, Repr

/-- Everything the machine holds. -/
structure State where
  /-- accumulator, first word (R20, R21) -/
  acc0 : Word
  /-- accumulator, second word (R20, R21) -/
  acc1 : Word
  /-- pending byte 0, the earliest in stream order (R20, R22) -/
  pbuf0 : Byte
  /-- pending byte 1 (R20, R22) -/
  pbuf1 : Byte
  /-- pending byte 2 (R20, R22) -/
  pbuf2 : Byte
  /-- number of valid pending bytes (R20, R23) -/
  pcnt : BitVec 2
  /-- bytes written since the last initialisation, mod 2^64 (R20, R25) -/
  tlen : Len
  /-- construction-time seed (R20, R26) -/
  seed : Seed
  /-- the sticky fault mark with its record (R33, R212); `none` is 'not set' -/
  fault : Option FaultRecord
  /-- the words handed to UPD, in order (R33, R76) -/
  wordTrace : List Word
  /-- the values returned by respond, in order (R33, R74) -/
  responses : List Word
  /-- the level of rst_ni (R70, R240) -/
  rstN : Bool
  /-- the response that waits on rsp_o; `none` is rsp_valid_o = 0 (R70, R74) -/
  rsp : Option Word
  /-- the level on seed_i when it was last sampled (R70, R75) -/
  seedI : Seed
  /-- what the host does next at the ports (R71, R74, R240, R249) -/
  events : List HostEvent
  /-- index of accepted commands, not hardware state (R30, R63) -/
  cmdIndex : Nat
  /-- the model's own counter for the free values of stale bytes (log entry 3) -/
  staleCount : Nat
  deriving DecidableEq, Repr

/-- Why the machine stops with a fault. -/
inductive Fault where
  /-- Raised by `step` (in Machine/Port.lean) in a state whose fault mark is set, whatever comes next but a change of
  rst_ni: the model does not go on after an illegal command word (R212). Safe: the hardware goes on (R211), so claims
  become unprovable and none false provable. -/
  | illegalCommand (reason : IllegalReason) (word : CmdWord)
  deriving DecidableEq, Repr

/-- Why a step has no meaning. -/
inductive Refusal where
  /-- Raised by an arm of exec whose instruction has no meaning yet. No arm does. Safe. -/
  | notModelled (mnemonic : String)
  deriving DecidableEq, Repr

/-- Right after the release of rst_ni (R34, R240) with `Config.powerOnSeed` on seed_i, and no host event listed (R241).
The pending bytes are stale (R34): free values (log entry 3). -/
def State.reset : State where
  acc0 := (Config.mixer.init Config.powerOnSeed).acc0
  acc1 := (Config.mixer.init Config.powerOnSeed).acc1
  pbuf0 := Config.staleByte 0 0
  pbuf1 := Config.staleByte 0 1
  pbuf2 := Config.staleByte 0 2
  pcnt := 0
  tlen := 0
  seed := Config.powerOnSeed
  fault := none
  wordTrace := []
  responses := []
  rstN := true
  rsp := none
  seedI := Config.powerOnSeed
  events := []
  cmdIndex := 0
  staleCount := 1

end Sys2Proof.Machine
end

