-- ==== Sys2Proof/Machine/Flags.lean ====
section
/-!
DEFINITION. The block has no flags and no condition codes (10_state.md R30), so no instruction computes one. What stands
here are its status outputs (30_encoding.md R70, R71, R74) and the model's fault mark (R33).
-/

namespace Sys2Proof.Machine

/-- cmd_ready_o: 0 while rst_ni = 0 (R240) and while a response waits to be taken (R71). -/
def State.cmdReady (s : State) : Bool := s.rstN && s.rsp.isNone

/-- rsp_valid_o (R74); 0 while rst_ni = 0 (R240). -/
def State.rspValid (s : State) : Bool := s.rstN && s.rsp.isSome

/-- The fault mark as the Boolean of R33. -/
def State.faultMark (s : State) : Bool := s.fault.isSome

end Sys2Proof.Machine
end

