-- ==== Sys2Proof/Machine/Ops.lean ====
section
/-!
DEFINITION. The named operations over the registers: reading the pending bytes, feeding words to UPD, the write algorithm
(40_write.md R102), finalization (41_digest.md R141), construction and reset (42_control.md), and what the ports do
(30_encoding.md R71, R74; 60_exceptions.md R212; 70_reset_and_hazards.md R240). The block has no trap entry and no trap
return (60_exceptions.md R215): its one exception, an illegal word, is `State.raiseIllegal`.
-/

namespace Sys2Proof.Machine

/-- `acc = (acc0, acc1)` (R21). -/
def State.acc (s : State) : Acc := ⟨s.acc0, s.acc1⟩

def State.setAcc (a : Acc) (s : State) : State := { s with acc0 := a.acc0, acc1 := a.acc1 }

/-- `P = [pbuf[0], ..., pbuf[pcnt-1]]` (R11): the valid bytes, and no stale one (R24). -/
def State.pending (s : State) : List Byte := [s.pbuf0, s.pbuf1, s.pbuf2].take s.pcnt.toNat

/-- What `pbuf[k]` holds after `bytes` are stored at `pbuf[p], pbuf[p+1], ...`: the byte that falls on k, else what it held
(R102). -/
def storedAt (bytes : List Byte) (p k : Nat) (old : Byte) : Byte :=
  if p ≤ k then bytes[k - p]?.getD old else old

/-- `for j in 0 .. L-1: pbuf[pcnt + j] <- bytes[j]; pcnt <- pcnt + L` (R102 steps 1 and 3). -/
def State.appendPending (bytes : List Byte) (s : State) : State :=
  { s with
    pbuf0 := storedAt bytes s.pcnt.toNat 0 s.pbuf0
    pbuf1 := storedAt bytes s.pcnt.toNat 1 s.pbuf1
    pbuf2 := storedAt bytes s.pcnt.toNat 2 s.pbuf2
    pcnt := s.pcnt + BitVec.ofNat 2 bytes.length }

/-- `pbuf[k]` once the first `p` bytes stop being valid: a byte that becomes stale has no value the rules define (R24,
log entry 3). -/
def State.retiredAt (s : State) (p k : Nat) (old : Byte) : Byte :=
  if k < p then Config.staleByte s.staleCount k else old

/-- The first `p` pending bytes become stale (R24); no other register changes. -/
def State.retire (p : Nat) (s : State) : State :=
  { s with
    pbuf0 := s.retiredAt p 0 s.pbuf0
    pbuf1 := s.retiredAt p 1 s.pbuf1
    pbuf2 := s.retiredAt p 2 s.pbuf2
    staleCount := s.staleCount + 1 }

/-- `pcnt <- 0`: every pending byte stops being valid (R102 step 1, R171). -/
def State.clearPending (s : State) : State := { s.retire s.pcnt.toNat with pcnt := 0 }

/-- `emit Upd(w); acc <- UPD(acc, w)` for each word in order (R102, R107). -/
def State.feedWords (m : Mixer) (ws : List Word) (s : State) : State :=
  { s.setAcc (ws.foldl m.upd s.acc) with wordTrace := s.wordTrace ++ ws }

/-- `tlen <- (tlen + L) mod 2^64` (R108). -/
def State.addLen (n : Nat) (s : State) : State := { s with tlen := s.tlen + BitVec.ofNat 64 n }

/-- Steps 2 and 3 of R102, entered with pcnt = 0: the whole words of `rest`, then its tail into pbuf. -/
def State.writeAligned (m : Mixer) (rest : List Byte) (s : State) : State :=
  (s.feedWords m (wordsOf (rest.take (wholeLen rest)))).appendPending (tailOf rest)

/-- WRITE_CHUNK (R102), the normative form, for a chunk of any length. -/
def State.writeChunk (m : Mixer) (chunk : List Byte) (s : State) : State :=
  let need := 4 - s.pcnt.toNat
  if s.pcnt = 0 then
    (s.writeAligned m chunk).addLen chunk.length
  else if chunk.length < need then
    (s.appendPending chunk).addLen chunk.length
  else
    ((s.feedWords m (wordsOf (s.pending ++ chunk.take need))).clearPending.writeAligned m (chunk.drop need)).addLen
      chunk.length

/-- FINALIZE (R141): reads a snapshot, writes nothing. -/
def State.finalize (m : Mixer) (s : State) : Word := m.finalize s.acc s.pending s.tlen

/-- `respond(v)` (R12, R74): v waits on rsp_o and joins the response list. -/
def State.respond (v : Word) (s : State) : State :=
  { s with rsp := some v, responses := s.responses ++ [v] }

/-- The registers that both initialisations set from a seed (R171, R174): the accumulator, tlen and the word trace. -/
def State.initFrom (m : Mixer) (v : Seed) (s : State) : State :=
  { s.setAcc (m.init v) with tlen := 0, wordTrace := [] }

/-- RESET (R171): the seed stays, the pending bytes become stale. -/
def State.reinit (m : Mixer) (s : State) : State := (s.initFrom m s.seed).clearPending

/-- CONSTRUCT with the seed `v` (R174): every pbuf byte becomes stale, valid or not. -/
def State.construct (m : Mixer) (v : Seed) (s : State) : State :=
  { (s.initFrom m v).retire Config.pbufDepth with seed := v, pcnt := 0 }

/-- A command word is accepted: the host's next event is used up, seed_i is sampled at its level, and the index of accepted
commands moves on (R71, R75, R30). -/
def State.accept (seedI : Seed) (rest : List HostEvent) (s : State) : State :=
  { s with events := rest, seedI := seedI, cmdIndex := s.cmdIndex + 1 }

/-- `raise IllegalCommand(reason)` (R212): the mark is set with the reason and the word; no register changes and nothing is
answered (R211). -/
def State.raiseIllegal (reason : IllegalReason) (w : CmdWord) (s : State) : State :=
  { s with fault := some ⟨reason, w⟩ }

/-- The host takes the response that waits (R74). -/
def State.takeResponse (rest : List HostEvent) (s : State) : State := { s with events := rest, rsp := none }

/-- rst_ni falls: nothing is ready and a waiting response is lost (R240, R242). -/
def State.assertReset (rest : List HostEvent) (s : State) : State :=
  { s with events := rest, rstN := false, rsp := none }

/-- POWER_ON_RESET at the release of rst_ni (R240), with the level `v` on seed_i. -/
def State.powerOnReset (m : Mixer) (v : Seed) (s : State) : State :=
  { s.construct m v with rstN := true, rsp := none, seedI := v, fault := none, responses := [] }

/-- rst_ni rises: from the low level this is the release; on a pin that is high there is no edge (log entry 6). -/
def State.releaseReset (m : Mixer) (v : Seed) (rest : List HostEvent) (s : State) : State :=
  if s.rstN then { s with events := rest } else { s.powerOnReset m v with events := rest }

/-- The host presents a command word next, to a block that is out of reset, has no fault mark and has nothing waiting (log
entry 7). The level on seed_i stays. -/
def State.present (w : CmdWord) (s : State) : State :=
  { s with events := .command w s.seedI :: s.events, rstN := true, rsp := none, fault := none }

end Sys2Proof.Machine
end

