-- ==== Sys2Proof/Machine/Control.lean ====
section
/-!
DEFINITION. RESET and CONSTRUCT (42_control.md): neither answers, neither is privileged (R179), neither can fail (R172,
R176), and neither touches the fault mark.
-/

namespace Sys2Proof.Machine

/-- CONSTRUCT (R174), with the level on seed_i sampled at acceptance (R75). -/
def execConstruct (s : State) : Host.Outcome State Fault Refusal :=
  .next (s.construct Config.mixer s.seedI)

/-- RESET (R171). -/
def execReset (s : State) : Host.Outcome State Fault Refusal :=
  .next (s.reinit Config.mixer)

end Sys2Proof.Machine
end

