-- ==== Sys2Proof/Machine/Digest.lean ====
section
/-!
DEFINITION. DIGEST, DIGEST_BE and INFO (41_digest.md): each answers one word and writes no register (R142, R144, R147).
-/

namespace Sys2Proof.Machine

/-- DIGEST (R141). -/
def execDigest (s : State) : Host.Outcome State Fault Refusal :=
  .next (s.respond (s.finalize Config.mixer))

/-- DIGEST_BE (R144): the digest with its bytes reversed, so that response lane k is serialized byte k. -/
def execDigestBe (s : State) : Host.Outcome State Fault Refusal :=
  .next (s.respond (bswap32 (s.finalize Config.mixer)))

/-- INFO (R147): the hardwired metadata. -/
def execInfo (s : State) : Host.Outcome State Fault Refusal :=
  .next (s.respond infoWord)

end Sys2Proof.Machine
end

