-- ==== Sys2Proof/Machine/Write.lean ====
section
/-!
DEFINITION. WRITE, one meaning for each row (40_write.md R101): the write algorithm of R102 with the beat as the chunk. A
legal WRITE raises nothing (R110) and answers nothing (R100).
-/

namespace Sys2Proof.Machine

/-- WRITE nb=0 (R101, R115): the empty chunk. -/
def execWriteNb0 (s : State) : Host.Outcome State Fault Refusal :=
  .next (s.writeChunk Config.mixer [])

/-- WRITE nb=1 (R101). -/
def execWriteNb1 (b0 : Byte) (s : State) : Host.Outcome State Fault Refusal :=
  .next (s.writeChunk Config.mixer [b0])

/-- WRITE nb=2 (R101). -/
def execWriteNb2 (b0 b1 : Byte) (s : State) : Host.Outcome State Fault Refusal :=
  .next (s.writeChunk Config.mixer [b0, b1])

/-- WRITE nb=3 (R101). -/
def execWriteNb3 (b0 b1 b2 : Byte) (s : State) : Host.Outcome State Fault Refusal :=
  .next (s.writeChunk Config.mixer [b0, b1, b2])

/-- WRITE nb=4 (R101). -/
def execWriteNb4 (b0 b1 b2 b3 : Byte) (s : State) : Host.Outcome State Fault Refusal :=
  .next (s.writeChunk Config.mixer [b0, b1, b2, b3])

end Sys2Proof.Machine
end

