-- ==== Sys2Proof/Machine/Dispatch.lean ====
section
/-!
DEFINITION. One arm per command, each a direct call of its meaning.
-/

namespace Sys2Proof.Machine

def exec (i : Instr) (s : State) : Host.Outcome State Fault Refusal :=
  match i with
  | .construct => Sys2Proof.Machine.execConstruct s
  | .reset => Sys2Proof.Machine.execReset s
  | .writeNb0 => Sys2Proof.Machine.execWriteNb0 s
  | .writeNb1 b0 => Sys2Proof.Machine.execWriteNb1 b0 s
  | .writeNb2 b0 b1 => Sys2Proof.Machine.execWriteNb2 b0 b1 s
  | .writeNb3 b0 b1 b2 => Sys2Proof.Machine.execWriteNb3 b0 b1 b2 s
  | .writeNb4 b0 b1 b2 b3 => Sys2Proof.Machine.execWriteNb4 b0 b1 b2 b3 s
  | .digest => Sys2Proof.Machine.execDigest s
  | .digestBe => Sys2Proof.Machine.execDigestBe s
  | .info => Sys2Proof.Machine.execInfo s

end Sys2Proof.Machine
end

