-- ==== Sys2Proof/Machine/Port.lean ====
section
/-!
DEFINITION. What one step does at the ports: the host's next event, and a command run when cmd_ready_o allows it
(30_encoding.md R71, R74; 60_exceptions.md R212; 70_reset_and_hazards.md R240 to R246).
-/

namespace Sys2Proof.Machine

/-- An accepted command word: a legal one runs, an illegal one sets the fault mark (R83, R212). -/
def runWord (w : CmdWord) (s : State) : Host.Outcome State Fault Refusal :=
  match decode w with
  | .legal i => exec i s
  | .illegal reason => .next (s.raiseIllegal reason w)

/-- A set fault mark stops the model: it does not carry on after an illegal word (R212). -/
def State.unlessMarked (s : State) (o : Host.Outcome State Fault Refusal) : Host.Outcome State Fault Refusal :=
  match s.fault with
  | some r => .fault (.illegalCommand r.reason r.word)
  | none => o

/-- One step: the host's next event. A change of rst_ni acts in every state (R240, R242). A command that cmd_ready_o = 0
holds off stays where it is and nothing changes: the stall of R246 is a hang, not a fault (93 U13). With no event the block
holds its registers (R221). -/
def portStep (s : State) : Host.Outcome State Fault Refusal :=
  match s.events with
  | .rstFall :: rest => .next (s.assertReset rest)
  | .rstRise v :: rest => .next (s.releaseReset Config.mixer v rest)
  | .command w v :: rest => s.unlessMarked (if s.cmdReady then runWord w (s.accept v rest) else .next s)
  | .takeResponse :: rest => s.unlessMarked (.next (s.takeResponse rest))
  | [] => s.unlessMarked (.next s)

end Sys2Proof.Machine
end

