-- ==== Sys2Proof/Machine/Step.lean ====
section
/-!
DEFINITION. The step, and the place where it finds its next instruction: the command at the head of the host's events.
-/

namespace Sys2Proof.Machine

/-- One atomic step of the machine (00_scope.md R7). -/
def step (s : State) : Host.Outcome State Fault Refusal := portStep s

/-- `s` with the command whose bits are `w` presented next on the command port (20_memory.md R63; log entry 7). -/
def State.withFetchWord (s : State) (nbits w : Nat) : State := s.present (tableWord nbits w)

end Sys2Proof.Machine
end

