-- ==== Sys2Proof/Machine/HostSide.lean ====
section
/-!
DEFINITION. The host's side of the ports: the assembler syntax of a test program (30_encoding.md R85), its encoding (R86), the
pseudo-instruction WRITESTR (R87), the events a program is (70_reset_and_hazards.md R249), and the prefix a host appends the
serialized digest to (41_digest.md R146). No step of the machine depends on this file.
-/

namespace Sys2Proof.Machine

/-- One line of a test program (R85, R87). -/
inductive AsmCmd where
  | construct (seed : Seed)
  | reset
  | write (bytes : List Byte)
  | writeStr (bytes : List Byte)
  | digest
  | digestBe
  | info
  deriving DecidableEq, Repr

/-- WRITESTR's beats (R87): the next four bytes while there are four, then what is left, if anything is. -/
def fullBeats : List Byte → List (List Byte)
  | b0 :: b1 :: b2 :: b3 :: rest => [b0, b1, b2, b3] :: fullBeats rest
  | [] => []
  | [b0] => [[b0]]
  | [b0, b1] => [[b0, b1]]
  | [b0, b1, b2] => [[b0, b1, b2]]

/-- The expansion of WRITESTR (R87): an empty chunk is exactly one empty beat. -/
def writeStrBeats (bytes : List Byte) : List (List Byte) :=
  if bytes = [] then [[]] else fullBeats bytes

/-- The commands of a line (R86, R87); `none` for a WRITE of more than four bytes, which R85 does not allow. -/
def AsmCmd.instrs : AsmCmd → Option (List Instr)
  | .construct _ => some [.construct]
  | .reset => some [.reset]
  | .write bytes => if Beat.wf bytes then (writeOf bytes).map ([·]) else none
  | .writeStr bytes => (writeStrBeats bytes).mapM writeOf
  | .digest => some [.digest]
  | .digestBe => some [.digestBe]
  | .info => some [.info]

/-- The level on seed_i while a line's commands are accepted: CONSTRUCT's operand (R86), and otherwise `idle`, whatever the
host leaves there (R75, 93 U15). -/
def AsmCmd.seedLevel (idle : Seed) : AsmCmd → Seed
  | .construct v => v
  | .reset => idle
  | .write _ => idle
  | .writeStr _ => idle
  | .digest => idle
  | .digestBe => idle
  | .info => idle

/-- Whether the block answers a word: the word is a command that responds (R74); an illegal word gets no response (R211). -/
def answers (w : CmdWord) : Bool :=
  match decode w with
  | .legal i => i.responds
  | .illegal _ => false

/-- The host's events for one command word with the level on seed_i while it is accepted: the word presented, and the
response taken where there is one (R74, R246, R249; log entry 2). -/
def wordEvents (p : CmdWord × Seed) : List HostEvent :=
  .command p.1 p.2 :: if answers p.1 then [.takeResponse] else []

/-- What the host does for a list of command words, each with its seed_i level (R249; log entry 2). -/
def hostEvents (ps : List (CmdWord × Seed)) : List HostEvent := ps.flatMap wordEvents

/-- The command words of a line, each with the level on seed_i (R86). -/
def AsmCmd.words (idle : Seed) (a : AsmCmd) : Option (List (CmdWord × Seed)) :=
  a.instrs.map (List.map fun i => (encode i, a.seedLevel idle))

/-- The command words of a program: those of its lines in order (R249). -/
def programWords (idle : Seed) (program : List AsmCmd) : Option (List (CmdWord × Seed)) :=
  (program.mapM (AsmCmd.words idle)).map List.flatten

/-- The events of a line (R86, R249). -/
def AsmCmd.events (idle : Seed) (a : AsmCmd) : Option (List HostEvent) := (a.words idle).map hostEvents

/-- The events of a program (R249). -/
def programEvents (idle : Seed) (program : List AsmCmd) : Option (List HostEvent) :=
  (programWords idle program).map hostEvents

/-- `digestBytes(prefix) = prefix ++ digestBytes()` (R146). -/
def digestBytesAfter (before : List Byte) (d : Word) : List Byte := before ++ digestBytes d

/-- Four bytes read as a big-endian number (R145). -/
def parseBe32 (bytes : List Byte) : Nat := bytes.foldl (fun n b => n * 256 + b.toNat) 0

/-! The text form of R85. Every function takes the characters still to read and answers a value with the rest. Where R85
leaves the text open, log entry 12 says what is read. -/

/-- White space inside a line. -/
def isBlank (c : Char) : Bool := c == ' ' || c == '\t'

def skipBlanks (cs : List Char) : List Char := cs.dropWhile isBlank

/-- The text after `word`, if the line begins with it. -/
def expect : List Char → List Char → Option (List Char)
  | [], cs => some cs
  | w :: ws, c :: cs => if w == c then expect ws cs else none
  | _ :: _, [] => none

/-- The value of a digit in this base. -/
def digitVal (base : Nat) (c : Char) : Option Nat :=
  let v :=
    if '0' ≤ c ∧ c ≤ '9' then some (c.toNat - '0'.toNat)
    else if 'a' ≤ c ∧ c ≤ 'f' then some (c.toNat - 'a'.toNat + 10)
    else if 'A' ≤ c ∧ c ≤ 'F' then some (c.toNat - 'A'.toNat + 10)
    else none
  v.filter (· < base)

/-- More digits after the number `n`; stops at the first character that is none. -/
def moreDigits (base : Nat) : Nat → List Char → Nat × List Char
  | n, [] => (n, [])
  | n, c :: cs =>
    match digitVal base c with
    | some d => moreDigits base (n * base + d) cs
    | none => (n, c :: cs)

/-- A number in this base, of one digit or more. -/
def readDigits (base : Nat) : List Char → Option (Nat × List Char)
  | [] => none
  | c :: cs => (digitVal base c).map fun d => moreDigits base d cs

/-- `0x` and hexadecimal digits, or decimal digits. -/
def readNat (cs : List Char) : Option (Nat × List Char) :=
  match expect ['0', 'x'] cs with
  | some rest => readDigits 16 rest
  | none => readDigits 10 cs

/-- An ASCII character's byte. -/
def asciiByte (c : Char) : Option Byte := if c.toNat < 128 then some (BitVec.ofNat 8 c.toNat) else none

/-- A byte literal: `0xNN`, decimal 0..255, or a quoted ASCII character (R85). -/
def readByte : List Char → Option (Byte × List Char)
  | '\'' :: c :: '\'' :: rest => (asciiByte c).map fun b => (b, rest)
  | cs => (readNat cs).bind fun (n, rest) => if n < 256 then some (BitVec.ofNat 8 n, rest) else none

/-- The characters of a string up to its closing quote (R85). -/
def readString : List Char → Option (List Byte × List Char)
  | [] => none
  | '"' :: rest => some ([], rest)
  | c :: cs => (asciiByte c).bind fun b => (readString cs).map fun (bs, rest) => (b :: bs, rest)

/-- The rest of a byte list: `, b` as often as it stands, then the closing bracket. `fuel` bounds the bytes. -/
def readMore : Nat → List Char → Option (List Byte × List Char)
  | 0, _ => none
  | fuel + 1, cs =>
    match skipBlanks cs with
    | ']' :: rest => some ([], rest)
    | ',' :: rest =>
      (readByte (skipBlanks rest)).bind fun (b, rest) =>
        (readMore fuel rest).map fun (bs, rest) => (b :: bs, rest)
    | _ => none

/-- The operand of WRITE and WRITESTR: a bracketed list or a quoted string (R85, R87). -/
def readBytes (cs : List Char) : Option (List Byte × List Char) :=
  match cs with
  | '"' :: rest => readString rest
  | '[' :: rest =>
    match skipBlanks rest with
    | ']' :: rest => some ([], rest)
    | rest =>
      (readByte rest).bind fun (b, rest) =>
        (readMore (rest.length + 1) rest).map fun (bs, rest) => (b :: bs, rest)
  | _ => none

/-- A mnemonic at the start of `cs`: the longest run of capitals and `_`, and what follows it. -/
def readMnemonic (cs : List Char) : List Char × List Char :=
  cs.span fun c => decide ('A' ≤ c ∧ c ≤ 'Z') || c == '_'

/-- CONSTRUCT's operand, `seed=<64-bit literal>` (R85). -/
def readSeed (cs : List Char) : Option (Seed × List Char) :=
  (expect ['s', 'e', 'e', 'd', '='] cs).bind fun cs =>
    (readNat cs).bind fun (n, rest) => if n < 2 ^ 64 then some (BitVec.ofNat 64 n, rest) else none

/-- The command of a line that is not blank, with what follows it. -/
def readCommand (cs : List Char) : Option (AsmCmd × List Char) :=
  let (mnemonic, rest) := readMnemonic cs
  let operand := skipBlanks rest
  if mnemonic = ['C', 'O', 'N', 'S', 'T', 'R', 'U', 'C', 'T'] then
    (readSeed operand).map fun (v, rest) => (.construct v, rest)
  else if mnemonic = ['R', 'E', 'S', 'E', 'T'] then some (.reset, rest)
  else if mnemonic = ['W', 'R', 'I', 'T', 'E'] then
    (readBytes operand).bind fun (bs, rest) => if Beat.wf bs then some (.write bs, rest) else none
  else if mnemonic = ['W', 'R', 'I', 'T', 'E', 'S', 'T', 'R'] then
    (readBytes operand).map fun (bs, rest) => (.writeStr bs, rest)
  else if mnemonic = ['D', 'I', 'G', 'E', 'S', 'T'] then some (.digest, rest)
  else if mnemonic = ['D', 'I', 'G', 'E', 'S', 'T', '_', 'B', 'E'] then some (.digestBe, rest)
  else if mnemonic = ['I', 'N', 'F', 'O'] then some (.info, rest)
  else none

/-- Nothing, or a comment: `;` starts one (R85). -/
def lineEnds (cs : List Char) : Bool :=
  match skipBlanks cs with
  | [] => true
  | c :: _ => c == ';'

/-- One line of a program (R85): `some none` for a line that holds no command. -/
def parseLine (cs : List Char) : Option (Option AsmCmd) :=
  if lineEnds cs then some none
  else (readCommand (skipBlanks cs)).bind fun (a, rest) => if lineEnds rest then some (some a) else none

/-- The lines of a text. -/
def splitLines : List Char → List (List Char)
  | [] => [[]]
  | c :: cs =>
    if c == '\n' then [] :: splitLines cs
    else
      match splitLines cs with
      | [] => [[c]]
      | l :: ls => (c :: l) :: ls

/-- A test program: a list of commands, one a line (R85). -/
def parseProgram (cs : List Char) : Option (List AsmCmd) :=
  ((splitLines cs).mapM parseLine).map (List.filterMap id)

end Sys2Proof.Machine
end

