-- ==== Sys2Proof/Machine/Run.lean ====
section
/-!
DEFINITION. A run of a test program (70_reset_and_hazards.md R249): the launch state, the host's list of command words presented at the
port, the steps of the machine over them, and where the run ends. Every command goes through the port: its word is decoded, seed_i
is sampled when it is accepted, and the host takes each response.
-/

namespace Sys2Proof.Machine

/-- This many steps; a fault or a refusal ends them. -/
def steps : Nat → State → Host.Outcome State Fault Refusal
  | 0, s => .next s
  | n + 1, s =>
    match step s with
    | .next t => steps n t
    | .fault r => .fault r
    | .refused r => .refused r

/-- The launch state of R249: right after power-on reset (R240) with `v` on seed_i. -/
def State.launch (v : Seed) : State := State.reset.powerOnReset Config.mixer v

/-- The host's list of command words, each with its seed_i level, is what the host does next (R249). -/
def State.load (program : List (CmdWord × Seed)) (s : State) : State := { s with events := hostEvents program }

/-- The run has ended: every command of the list has been accepted and performed, and every response has been taken
(R249). -/
def State.runEnded (s : State) : Bool := s.events.isEmpty && s.rsp.isNone

/-- A valid end state: the run has ended, and its fault mark is not set (R249, R212). -/
def State.validEnd (s : State) : Bool := s.runEnded && !s.faultMark

/-- The end state of a run of the program from `s`, if it has a valid one (R249). Each step uses up one event unless the command
at the head is held off for good (R246), so one step for each event is all a run can use. -/
def endState (program : List (CmdWord × Seed)) (s : State) : Option State :=
  match steps (hostEvents program).length (s.load program) with
  | .next t => if t.validEnd then some t else none
  | .fault _ => none
  | .refused _ => none

end Sys2Proof.Machine
end

