-- ==== Sys2Proof/Safety.lean ====
section
/-!
DEFINITION. What claims observe and what a sound state is: the observation of a run (70_reset_and_hazards.md R249), the invariants of
10_state.md R27 to R29, the launch states a run may start from, and lists of commands.
-/

namespace Sys2Proof.Machine

/-- The observation of R249: the registers of R20 without stale bytes, the response list, the word trace and the fault
mark. -/
structure Observation where
  acc : Acc
  pending : List Byte
  pcnt : BitVec 2
  tlen : Len
  seed : Seed
  responses : List Word
  wordTrace : List Word
  fault : Option FaultRecord
  deriving DecidableEq, Repr

def State.observe (s : State) : Observation where
  acc := s.acc
  pending := s.pending
  pcnt := s.pcnt
  tlen := s.tlen
  seed := s.seed
  responses := s.responses
  wordTrace := s.wordTrace
  fault := s.fault

/-- The registers of R20 and the word trace, without stale bytes: what a stream decides (R113). -/
structure Registers where
  acc : Acc
  pending : List Byte
  pcnt : BitVec 2
  tlen : Len
  seed : Seed
  wordTrace : List Word
  deriving DecidableEq, Repr

def State.registers (s : State) : Registers where
  acc := s.acc
  pending := s.pending
  pcnt := s.pcnt
  tlen := s.tlen
  seed := s.seed
  wordTrace := s.wordTrace

/-- The registers R113 gives for a stream and a seed: the closed form. -/
def closedForm (m : Mixer) (seed : Seed) (stream : List Byte) : Registers where
  acc := (wordsOf stream).foldl m.upd (m.init seed)
  pending := tailOf stream
  pcnt := BitVec.ofNat 2 stream.length
  tlen := BitVec.ofNat 64 stream.length
  seed := seed
  wordTrace := wordsOf stream

/-- The invariants R27, R28 and R29 (and the word trace of R113) for the stream written since the last initialisation. -/
def State.Reflects (m : Mixer) (stream : List Byte) (s : State) : Prop :=
  s.registers = closedForm m s.seed stream

/-- The step invariant of 10_state.md §2: the registers are those of some stream. -/
def State.Inv (m : Mixer) (s : State) : Prop := ∃ stream : List Byte, s.Reflects m stream

/-- R27, R28 and R29 alone, for a stated stream: nothing is said of the word trace, which in a stated launch state holds
only what the state states (R249, and P3 of 95_test_vectors.md). -/
def State.MeetsInvariants (m : Mixer) (stream : List Byte) (s : State) : Prop :=
  s.acc = (wordsOf stream).foldl m.upd (m.init s.seed) ∧ s.pending = tailOf stream ∧
    s.pcnt = BitVec.ofNat 2 stream.length ∧ s.tlen = BitVec.ofNat 64 stream.length

/-- A launch state of R249: the state right after power-on reset with a given seed_i, or a stated state that meets R27 to R29
for a stated stream. A stated state can take a command: out of reset, nothing waiting, no fault mark, the host's list not yet
given. -/
def State.IsLaunch (s : State) : Prop :=
  (∃ v : Seed, s = State.launch v) ∨
  (∃ stream : List Byte, s.MeetsInvariants Config.mixer stream ∧ s.rstN = true ∧ s.rsp = none ∧ s.fault = none ∧
    s.events = [])

/-- `t` is the valid end state of a run from `s`, however many steps it takes and whatever the host's events are (R249). -/
def State.RunsTo (s t : State) : Prop := ∃ n : Nat, steps n s = .next t ∧ t.validEnd = true

/-- The observation of a run (R249): that of its valid end state. A run whose fault mark is set has none. -/
def runObservation (program : List (CmdWord × Seed)) (s : State) : Option Observation :=
  (endState program s).map State.observe

/-- What the ports keep: a response waits only while rst_ni is high (R240). -/
def State.PortsOk (s : State) : Prop := s.rsp.isSome = true → s.rstN = true

/-- The stream after a command (R51): a WRITE appends its beat, RESET and CONSTRUCT start again. -/
def streamAfter (stream : List Byte) : Instr → List Byte
  | .construct => []
  | .reset => []
  | .writeNb0 => stream
  | .writeNb1 b0 => stream ++ [b0]
  | .writeNb2 b0 b1 => stream ++ [b0, b1]
  | .writeNb3 b0 b1 b2 => stream ++ [b0, b1, b2]
  | .writeNb4 b0 b1 b2 b3 => stream ++ [b0, b1, b2, b3]
  | .digest => stream
  | .digestBe => stream
  | .info => stream

/-- Commands performed one after another (R61) with the level on seed_i left as it is, stopping at the first that does not answer
a next state. A run through the port is `steps` (Machine/Run.lean). -/
def execAll : List Instr → State → Host.Outcome State Fault Refusal
  | [], s => .next s
  | i :: is, s =>
    match exec i s with
    | .next t => execAll is t
    | .fault r => .fault r
    | .refused r => .refused r

/-- Commands performed one after another, each with its level on seed_i (R249), without the port: what a run through the port is
compared with. -/
def execProgram : List (Instr × Seed) → State → Host.Outcome State Fault Refusal
  | [], s => .next s
  | (i, v) :: rest, s =>
    match exec i { s with seedI := v } with
    | .next t => execProgram rest t
    | .fault r => .fault r
    | .refused r => .refused r

end Sys2Proof.Machine
end

