-- ==== Sys2Proof/Certificates/Slice0/Obligations.lean ====
section
/-!
DEFINITION. The statements for the provers, each from a numbered rule of spec/. The block has no memory (20_memory.md R50) and no
flags (10_state.md R30), so a frame here is about the registers, the records and the ports. Statements about an opaque
parameter (the mixer's functions, the power-on seed, a stale byte) hold whatever it is.
-/

open Sys2Proof
open Sys2Proof.Machine

/-! ## Words used by the statements -/

namespace Sys2Proof.Statements

/-- `pbuf[k]` by its number. -/
def pbufAt (s : State) : Nat → Byte
  | 0 => s.pbuf0
  | 1 => s.pbuf1
  | _ => s.pbuf2

/-- The condition of each row of the table of R213, on the word as a number: the opcode is `n / 2^36`, the reserved bit
`n / 2^35 % 2`, nb `n / 2^32 % 8`, the data field `n % 2^32`. -/
def reasonHolds (w : CmdWord) : IllegalReason → Prop
  | .reservedOpcode => w.toNat / 2 ^ 36 = 0 ∨ 7 ≤ w.toNat / 2 ^ 36
  | .reservedBit => w.toNat / 2 ^ 35 % 2 = 1
  | .nbRange => w.toNat / 2 ^ 36 = 3 ∧ 5 ≤ w.toNat / 2 ^ 32 % 8
  | .nonzeroOperand => w.toNat / 2 ^ 36 ≠ 3 ∧ w.toNat % 2 ^ 35 ≠ 0
  | .dirtyLane =>
      w.toNat / 2 ^ 36 = 3 ∧ w.toNat / 2 ^ 32 % 8 < 4 ∧ w.toNat % 2 ^ 32 / 2 ^ (8 * (w.toNat / 2 ^ 32 % 8)) ≠ 0

/-- Bytes as a little-endian number, the first byte lowest (R86). -/
def leNat (bytes : List Byte) : Nat := bytes.foldr (fun b n => b.toNat + 256 * n) 0

/-- The pieces of state that no stream and no command but the named ones touch: the frame that WRITE, RESET and CONSTRUCT
share. -/
def sameOutside (s t : State) : Prop :=
  t.fault = s.fault ∧ t.responses = s.responses ∧ t.rstN = s.rstN ∧ t.rsp = s.rsp ∧ t.seedI = s.seedI ∧
    t.events = s.events ∧ t.cmdIndex = s.cmdIndex

/-- The response of a command that reads (R141, R144, R147), from a digest `d`. -/
def answer (d : Word) : Instr → Option Word
  | .construct => none
  | .reset => none
  | .writeNb0 => none
  | .writeNb1 _ => none
  | .writeNb2 _ _ => none
  | .writeNb3 _ _ _ => none
  | .writeNb4 _ _ _ _ => none
  | .digest => some d
  | .digestBe => some (bswap32 d)
  | .info => some 0x00000404#32

/-- A list of WRITE beats whose bytes concatenate to `bytes` (R114). -/
def beatsOf (is : List Instr) (bytes : List Byte) : Prop :=
  (∀ i ∈ is, i.isWrite = true) ∧ (is.map Instr.beat).flatten = bytes

/-- The host presents the word `w` next, with seed_i at `v`, to a block that can accept it: out of reset, no response
waiting, no fault mark (R71). -/
def ready (s : State) (w : CmdWord) (v : Seed) (rest : List HostEvent) : Prop :=
  s.events = .command w v :: rest ∧ s.rstN = true ∧ s.rsp = none ∧ s.fault = none

end Sys2Proof.Statements

open Sys2Proof.Statements

/-! ## Encoding -/

/-- R79, R83, R86: no bit of an encoding is dropped. -/
def Obligations.DecodesEveryEncoding : Prop :=
  ∀ i : Instr, decode (encode i) = .legal i

/-- R79, R80, R83: a command has one legal word, so nothing is read as the nearest legal command. -/
def Obligations.LegalWordIsItsEncoding : Prop :=
  ∀ (w : CmdWord) (i : Instr), decode w = .legal i → encode i = w

/-- R79: legal if and only if exactly one row matches, the row is the command's own, and no two rows match one word. -/
def Obligations.LegalExactlyWhenOneRowFits : Prop :=
  ∀ w : CmdWord,
    ((∃ i : Instr, decode w = .legal i) ↔ (rows.filter (·.fits w)).length = 1) ∧
    (∀ i : Instr, decode w = .legal i → i.row.fits w = true) ∧
    (rows.filter (·.fits w)).length ≤ 1

/-- R213: the reported reason is the first that applies, in the order of the codes; a word with no reason is legal (R83). -/
def Obligations.ReportsFirstFailingCheck : Prop :=
  ∀ w : CmdWord,
    (∀ r : IllegalReason, decode w = .illegal r ↔
      reasonHolds w r ∧ ∀ r' : IllegalReason, r'.code < r.code → ¬ reasonHolds w r') ∧
    ((∃ i : Instr, decode w = .legal i) ↔ ∀ r : IllegalReason, ¬ reasonHolds w r) ∧
    [IllegalReason.reservedOpcode, .reservedBit, .nbRange, .nonzeroOperand, .dirtyLane].map IllegalReason.code =
      [1, 2, 3, 4, 5]

/-- Words written out from R79, R86 and 95_test_vectors.md section 3. -/
def Obligations.SpecWordsDecode : Prop :=
  decode 0x1000000000#40 = .legal .construct ∧
  decode 0x2000000000#40 = .legal .reset ∧
  decode 0x3000000000#40 = .legal .writeNb0 ∧
  decode 0x3100000061#40 = .legal (.writeNb1 0x61#8) ∧
  decode 0x33006F6C6C#40 = .legal (.writeNb3 0x6C#8 0x6C#8 0x6F#8) ∧
  decode 0x346C6C6568#40 = .legal (.writeNb4 0x68#8 0x65#8 0x6C#8 0x6C#8) ∧
  decode 0x4000000000#40 = .legal .digest ∧
  decode 0x5000000000#40 = .legal .digestBe ∧
  decode 0x6000000000#40 = .legal .info ∧
  decode 0x3161000000#40 = .illegal .dirtyLane

/-- R86: the word each assembler line encodes as, with the level on seed_i while it is accepted. The `.takeResponse` after DIGEST,
DIGEST_BE and INFO is not R86's: it is the model's choice (log entry 2, DESIGN CHOICE) of how a host that takes every response
(R246, R249) is written as a list of events. -/
def Obligations.AssemblerEncodesEveryLine : Prop :=
  ∀ idle : Seed,
    (∀ v : Seed, (AsmCmd.construct v).events idle = some [.command 0x1000000000#40 v]) ∧
    (∀ bytes : List Byte, bytes.length ≤ 4 → ∃ w : CmdWord,
      (AsmCmd.write bytes).events idle = some [.command w idle] ∧
      w.toNat = 3 * 2 ^ 36 + bytes.length * 2 ^ 32 + leNat bytes) ∧
    AsmCmd.reset.events idle = some [.command Row.reset.value idle] ∧
    AsmCmd.digest.events idle = some [.command Row.digest.value idle, .takeResponse] ∧
    AsmCmd.digestBe.events idle = some [.command Row.digestBe.value idle, .takeResponse] ∧
    AsmCmd.info.events idle = some [.command Row.info.value idle, .takeResponse] ∧
    (AsmCmd.write [0x68#8, 0x65#8, 0x6C#8, 0x6C#8]).events idle = some [.command 0x346C6C6568#40 idle]

/-- R87: WRITESTR is floor(L/4) beats of four bytes and one of the rest, in order; the empty chunk is exactly one empty
beat. -/
def Obligations.WriteStrExpandsIntoBeats : Prop :=
  ∀ bytes : List Byte,
    (writeStrBeats bytes).flatten = bytes ∧
    (bytes = [] → writeStrBeats bytes = [[]]) ∧
    (bytes ≠ [] → (writeStrBeats bytes).map List.length =
      List.replicate (bytes.length / 4) 4 ++ if bytes.length % 4 = 0 then [] else [bytes.length % 4]) ∧
    ∃ is : List Instr, (AsmCmd.writeStr bytes).instrs = some is ∧ is.map Instr.beat = writeStrBeats bytes ∧
      ∀ i ∈ is, i.isWrite = true

/-! ## A step, the ports, reset -/

/-- R61, R71, R75: a presented word that decodes runs as its command; around it the step uses up the event, samples seed_i and
counts the accepted command. -/
def Obligations.StepRunsTheDecodedCommand : Prop :=
  ∀ (s : State) (w : CmdWord) (v : Seed) (rest : List HostEvent) (i : Instr),
    ready s w v rest → decode w = .legal i →
    step s = exec i { s with events := rest, seedI := v, cmdIndex := s.cmdIndex + 1 }

/-- Log entry 7: the command placed by withFetchWord is what the next step runs. -/
def Obligations.FetchedWordRunsNext : Prop :=
  ∀ (s : State) (nbits w : Nat) (i : Instr), decodeTableWord nbits w = some i →
    step (s.withFetchWord nbits w) =
      exec i { s with rstN := true, rsp := none, fault := none, cmdIndex := s.cmdIndex + 1 }

/-- R211: an accepted illegal word changes no register and answers nothing, and the block is ready again; R212: the mark is set
with the reason and the word, and the model does not go on. Two clauses are the model's: that the accepting step answers a next
state and the step after it faults (log entry 1, DEDUCED), and that the illegal word counts in cmdIndex (log entry 8, DESIGN
CHOICE). -/
def Obligations.IllegalWordMarksAndStops : Prop :=
  ∀ (s : State) (w : CmdWord) (v : Seed) (rest : List HostEvent) (r : IllegalReason),
    ready s w v rest → decode w = .illegal r →
    ∃ t : State, step s = .next t ∧
      t = { s with events := rest, seedI := v, cmdIndex := s.cmdIndex + 1, fault := some ⟨r, w⟩ } ∧
      t.cmdReady = true ∧
      ((∀ e : HostEvent, rest.head? = some e → e ≠ .rstFall ∧ ∀ v' : Seed, e ≠ .rstRise v') →
        step t = .fault (.illegalCommand r w))

/-- R212: no later step clears the mark; only the release of rst_ni, a new launch, does. No command clears it. -/
def Obligations.FaultMarkIsSticky : Prop :=
  (∀ (s t : State) (f : FaultRecord), s.fault = some f → step s = .next t →
    t.fault = some f ∨ ∃ (v : Seed) (rest : List HostEvent), s.events = .rstRise v :: rest ∧ s.rstN = false) ∧
  (∀ (i : Instr) (s : State), ∃ t : State, exec i s = .next t ∧ t.fault = s.fault)

/-- R210: every legal command completes for every byte value, every byte count, every state and every seed. -/
def Obligations.EveryLegalCommandCompletes : Prop :=
  ∀ (w : CmdWord) (i : Instr) (s : State), decode w = .legal i → ∃ t : State, exec i s = .next t ∧ t.fault = s.fault

/-- R71, R246: while a response waits no command is accepted and nothing changes; once it is taken the block is ready. The first
clause's form, that the step of a held-off command answers the same state with the event still at the head, is the model's choice
(log entry 9, DEDUCED; log entry 2, DESIGN CHOICE): the spec gives no outcome of a step there. -/
def Obligations.WaitingResponseHoldsCommandsOff : Prop :=
  ∀ (s : State) (d : Word) (rest : List HostEvent), s.rsp = some d → s.fault = none →
    (∀ (w : CmdWord) (v : Seed), s.events = .command w v :: rest → step s = .next s) ∧
    (s.rstN = true → s.events = .takeResponse :: rest → ∃ t : State, step s = .next t ∧
      t = { s with events := rest, rsp := none } ∧ t.cmdReady = true ∧ t.rspValid = false)

/-- R74: DIGEST, DIGEST_BE and INFO each produce exactly one response, and no other command produces one. -/
def Obligations.OnlyReadersRespond : Prop :=
  ∀ (i : Instr) (s : State), ∃ t : State, exec i s = .next t ∧
    if i = .digest ∨ i = .digestBe ∨ i = .info then ∃ d : Word, t.rsp = some d ∧ t.responses = s.responses ++ [d]
    else t.rsp = s.rsp ∧ t.responses = s.responses

/-- R240: nothing is ready or valid while rst_ni is low, and the release performs construction with the level on seed_i. -/
def Obligations.ReleasePerformsConstruction : Prop :=
  (∀ s : State, s.rstN = false → s.cmdReady = false ∧ s.rspValid = false) ∧
  (∀ (s : State) (v : Seed) (rest : List HostEvent), s.rstN = false → s.events = .rstRise v :: rest →
    ∃ t : State, step s = .next t ∧ t.seed = v ∧ t.acc = Config.mixer.init v ∧ t.pcnt = 0 ∧ t.tlen = 0 ∧
      t.fault = none ∧ t.wordTrace = [] ∧ t.responses = [] ∧ t.cmdReady = true ∧ t.rspValid = false ∧ t.events = rest)

/-- R242: whatever a command had done and whatever response waited, after a fall and a release the state is that of R240:
the seed is the level on seed_i at the release and the other registers are its empty stream's, nothing of the earlier state is
observable, and the response is lost. -/
def Obligations.ResetErasesTheRun : Prop :=
  ∀ (s s' : State) (v : Seed) (rest : List HostEvent),
    s.events = .rstFall :: .rstRise v :: rest → s'.events = .rstFall :: .rstRise v :: rest →
    ∃ t t' u u' : State, step s = .next t ∧ step t = .next u ∧ step s' = .next t' ∧ step t' = .next u' ∧
      t.rsp = none ∧ u.rsp = none ∧ u.responses = [] ∧ u.observe = u'.observe ∧ u.Reflects Config.mixer [] ∧
      u.seed = v ∧ u.fault = none

/-- R34, the power-on column, at State.reset. The level on seed_i there is the free value of log entry 4. -/
def Obligations.ResetStateValues : Prop :=
  State.reset.seed = Config.powerOnSeed ∧ State.reset.acc = Config.mixer.init State.reset.seed ∧
  State.reset.pcnt = 0 ∧ State.reset.tlen = 0 ∧ State.reset.faultMark = false ∧ State.reset.wordTrace = [] ∧
  State.reset.responses = [] ∧ State.reset.cmdReady = true

/-- R221: with nothing at the ports the block holds its state. That a step then has an outcome, the same state, is the model's
choice (log entry 9, DEDUCED): the spec gives no outcome of a step for an idle block. -/
def Obligations.IdleHoldsEverything : Prop :=
  ∀ s : State, s.events = [] → s.fault = none → step s = .next s

/-! ## WRITE -/

/-- R103: the aligner form of WRITE, for every row and in every state. -/
def Obligations.WriteGivesAlignerForm : Prop :=
  ∀ (i : Instr) (s : State), i.isWrite = true →
    ∃ t : State, exec i s = .next t ∧ sameOutside s t ∧ t.seed = s.seed ∧
      t.tlen = s.tlen + BitVec.ofNat 64 i.beat.length ∧
      t.pcnt.toNat = t.pending.length ∧
      (if 4 ≤ s.pcnt.toNat + i.beat.length then
        ∃ b0 b1 b2 b3 : Byte, (s.pending ++ i.beat).take 4 = [b0, b1, b2, b3] ∧
          t.acc = Config.mixer.upd s.acc (le32 b0 b1 b2 b3) ∧
          t.wordTrace = s.wordTrace ++ [le32 b0 b1 b2 b3] ∧
          t.pending = (s.pending ++ i.beat).drop 4
      else
        t.acc = s.acc ∧ t.wordTrace = s.wordTrace ∧ t.pending = s.pending ++ i.beat ∧
          ∀ k < 3, k < s.pcnt.toNat ∨ s.pcnt.toNat + i.beat.length ≤ k → pbufAt t k = pbufAt s k)

/-- R104, closed form: where each byte of the completed word and of the next pending buffer comes from, with the lanes of the
command word's data field. -/
def Obligations.AlignmentMuxPlacesEveryByte : Prop :=
  ∀ (i : Instr) (s : State), i.isWrite = true →
    let nb := i.beat.length
    let p := s.pcnt.toNat
    let data := cmdData (encode i)
    ∃ t : State, exec i s = .next t ∧
      (4 ≤ p + nb → ∃ w : Word, t.wordTrace = s.wordTrace ++ [w] ∧ t.acc = Config.mixer.upd s.acc w ∧
        (∀ k < 4, lane w k = if k < p then pbufAt s k else lane data (k - p)) ∧
        (∀ j < p + nb - 4, pbufAt t j = lane data (4 - p + j)) ∧ t.pcnt.toNat = p + nb - 4) ∧
      (p + nb < 4 → t.wordTrace = s.wordTrace ∧ t.acc = s.acc ∧
        (∀ j < p, pbufAt t j = pbufAt s j) ∧
        (∀ j < nb, pbufAt t (p + j) = lane data j) ∧ t.pcnt.toNat = p + nb)

/-- R105: the pending-byte state machine, for every command, for an illegal word and for power-on reset. -/
def Obligations.PendingStateMachine : Prop :=
  (∀ (i : Instr) (s : State), ∃ t : State, exec i s = .next t ∧
    (i.isWrite = true → t.pcnt.toNat = (s.pcnt.toNat + i.beat.length) % 4 ∧
      ((∃ w : Word, t.wordTrace = s.wordTrace ++ [w]) ↔ 4 ≤ s.pcnt.toNat + i.beat.length) ∧
      (t.wordTrace = s.wordTrace ↔ s.pcnt.toNat + i.beat.length < 4)) ∧
    (i = .reset ∨ i = .construct → t.pcnt = 0) ∧
    (i = .digest ∨ i = .digestBe ∨ i = .info → t.pcnt = s.pcnt)) ∧
  (∀ (s : State) (w : CmdWord) (v : Seed) (rest : List HostEvent) (r : IllegalReason),
    ready s w v rest → decode w = .illegal r → ∃ t : State, step s = .next t ∧ t.pcnt = s.pcnt) ∧
  (∀ (s : State) (v : Seed) (rest : List HostEvent), s.rstN = false → s.events = .rstRise v :: rest →
    ∃ t : State, step s = .next t ∧ t.pcnt = 0)

/-- R108: every legal WRITE adds its byte count mod 2^64, on every path; the wrap included. -/
def Obligations.WriteCountsEveryByte : Prop :=
  ∀ (i : Instr) (s : State), i.isWrite = true →
    ∃ t : State, exec i s = .next t ∧ t.tlen.toNat = (s.tlen.toNat + i.beat.length) % 2 ^ 64 ∧
      (s.tlen.toNat = 2 ^ 64 - 1 → i.beat.length = 1 → t.tlen = 0)

/-- R115: the empty chunk changes no register, emits no word and counts nothing; it expands to the empty beat. -/
def Obligations.EmptyWriteChangesNothing : Prop :=
  (∀ s : State, exec .writeNb0 s = .next s) ∧ (AsmCmd.writeStr []).instrs = some [.writeNb0]

/-- R111, second corner: a full beat on an empty buffer passes straight through; the word is the data field, and neither pbuf
nor anything but acc, the trace and tlen is written. -/
def Obligations.FullAlignedBeatPassesThrough : Prop :=
  ∀ (s : State) (b0 b1 b2 b3 : Byte), s.pcnt = 0 →
    let w := cmdData (encode (.writeNb4 b0 b1 b2 b3))
    exec (.writeNb4 b0 b1 b2 b3) s =
      .next { s with
        acc0 := (Config.mixer.upd s.acc w).acc0
        acc1 := (Config.mixer.upd s.acc w).acc1
        wordTrace := s.wordTrace ++ [w]
        tlen := s.tlen + 4 }

/-- R112: the worked example, for any mixer. -/
def Obligations.WriteWorkedExample : Prop :=
  ∀ s : State, s.pcnt = 1 → s.pbuf0 = 0x68#8 → s.tlen = 1 →
    decode 0x346F6C6C65#40 = .legal (.writeNb4 0x65#8 0x6C#8 0x6C#8 0x6F#8) ∧
    ∃ t : State, exec (.writeNb4 0x65#8 0x6C#8 0x6C#8 0x6F#8) s = .next t ∧
      t.wordTrace = s.wordTrace ++ [0x6C6C6568#32] ∧ t.acc = Config.mixer.upd s.acc 0x6C6C6568#32 ∧
      t.pbuf0 = 0x6F#8 ∧ t.pcnt = 1 ∧ t.tlen = 5

/-! ## Streams -/

/-- R27, R28, R29 are what every step keeps: the registers are those of the stream written since the last initialisation. -/
def Obligations.StepKeepsStreamInvariant : Prop :=
  ∀ s t : State, s.Inv Config.mixer → step s = .next t → t.Inv Config.mixer

/-- The invariants of R27 to R29 hold at reset, for the empty stream; so does the one of the ports (R240). -/
def Obligations.ResetMeetsTheInvariants : Prop :=
  State.reset.Reflects Config.mixer [] ∧ State.reset.PortsOk

/-- R113: each command takes the stream forward as R51 says, from every state that meets the invariants for a stream. -/
def Obligations.CommandTakesTheStreamForward : Prop :=
  ∀ (i : Instr) (s : State) (stream : List Byte), s.Reflects Config.mixer stream →
    ∃ t : State, exec i s = .next t ∧ t.Reflects Config.mixer (streamAfter stream i)

/-- R113: a legal WRITE takes the invariants for S to those for S ++ C, and the closed form after any legal sequence of beats from
RESET, CONSTRUCT or power-on reset, however the stream was cut. -/
def Obligations.ClosedFormAfterBeats : Prop :=
  (∀ (i : Instr) (s : State) (stream : List Byte), i.isWrite = true → s.Reflects Config.mixer stream →
    ∃ t : State, exec i s = .next t ∧ t.Reflects Config.mixer (stream ++ i.beat)) ∧
  (∀ (is : List Instr) (stream : List Byte), beatsOf is stream →
    (∀ s : State, ∃ t : State, execAll (.reset :: is) s = .next t ∧
      t.registers = closedForm Config.mixer s.seed stream) ∧
    (∀ s : State, ∃ t : State, execAll (.construct :: is) s = .next t ∧
      t.registers = closedForm Config.mixer s.seedI stream) ∧
    (∀ (s : State) (v : Seed) (rest : List HostEvent), s.rstN = false → s.events = .rstRise v :: rest →
      ∃ t u : State, step s = .next t ∧ execAll is t = .next u ∧ u.registers = closedForm Config.mixer v stream))

/-- R102, R114: from ANY state, every sequence of legal beats whose bytes concatenate to a chunk ends as the write algorithm on
the whole chunk does, WRITESTR's among them, so any two splits end in one observation. -/
def Obligations.EverySplitOfAChunkAgrees : Prop :=
  (∀ (is : List Instr) (chunk : List Byte) (s : State), beatsOf is chunk →
    ∃ t : State, execAll is s = .next t ∧ t.observe = (s.writeChunk Config.mixer chunk).observe) ∧
  (∀ chunk : List Byte, ∃ is : List Instr, (AsmCmd.writeStr chunk).instrs = some is ∧ beatsOf is chunk)

/-- R149: the digest of a stream in closed form, after RESET, CONSTRUCT or power-on reset and any beats. -/
def Obligations.DigestClosedForm : Prop :=
  ∀ (is : List Instr) (stream : List Byte), beatsOf is stream →
    (∀ s : State, ∃ t : State, execAll (.reset :: is ++ [.digest]) s = .next t ∧
      t.rsp = some (Config.mixer.digestOf s.seed stream)) ∧
    (∀ s : State, ∃ t : State, execAll (.construct :: is ++ [.digest]) s = .next t ∧
      t.rsp = some (Config.mixer.digestOf s.seedI stream)) ∧
    (∀ (s : State) (v : Seed) (rest : List HostEvent), s.rstN = false → s.events = .rstRise v :: rest →
      ∃ t u : State, step s = .next t ∧ execAll (is ++ [.digest]) t = .next u ∧
        u.rsp = some (Config.mixer.digestOf v stream))

/-! ## DIGEST, DIGEST_BE, INFO -/

/-- R141: DIGEST answers AVAL(PFIN(acc, P, tlen), tlen) and changes nothing but the response that waits and the response
list. -/
def Obligations.DigestFinalizesASnapshot : Prop :=
  ∀ s : State,
    let d := Config.mixer.aval (Config.mixer.pfin s.acc s.pending s.tlen) s.tlen
    exec .digest s = .next { s with rsp := some d, responses := s.responses ++ [d] }

/-- R143 at the mixer's ports: pf_cnt_o = pcnt, pf_tail_o lane j = pbuf[j] below pcnt and 0 above, always invoked; the
accumulator travels as {acc1, acc0} (R35). -/
def Obligations.DigestPortsCarryOnlyValidBytes : Prop :=
  ∀ s : State, ∃ (tail : BitVec 24) (t : State),
    (∀ j < 3, tail.extractLsb' (8 * j) 8 = if j < s.pcnt.toNat then pbufAt s j else 0) ∧
    exec .digest s = .next t ∧
    t.rsp = some (Config.avDigestI (Config.pfAccI (s.acc1 ++ s.acc0) tail s.pcnt s.tlen) s.tlen)

/-- R144, R145: DIGEST_BE answers the digest with its bytes reversed, so that response lane k is serialized byte k; the
serialization parsed as a big-endian integer is the digest. Its encoding is exactly 0x5000000000. -/
def Obligations.DigestBeIsTheSerialization : Prop :=
  (∀ w : CmdWord, decode w = .legal .digestBe ↔ w = 0x5000000000#40) ∧
  AsmCmd.digestBe.instrs = some [.digestBe] ∧
  ∀ s : State, ∃ d r : Word,
    exec .digest s = .next { s with rsp := some d, responses := s.responses ++ [d] } ∧
    exec .digestBe s = .next { s with rsp := some r, responses := s.responses ++ [r] } ∧
    digestBytes d = [d.extractLsb' 24 8, d.extractLsb' 16 8, d.extractLsb' 8 8, d.extractLsb' 0 8] ∧
    [lane r 0, lane r 1, lane r 2, lane r 3] = digestBytes d ∧
    parseBe32 (digestBytes d) = d.toNat

/-- R146: the host appends the four bytes after its prefix; nothing of the prefix is lost. -/
def Obligations.PrefixIsOnlyAppendedTo : Prop :=
  ∀ (before : List Byte) (d : Word),
    (digestBytesAfter before d).length = before.length + 4 ∧
    (digestBytesAfter before d).take before.length = before ∧
    parseBe32 ((digestBytesAfter before d).drop before.length) = d.toNat

/-- R147: INFO answers 0x00000404 in every state and writes no register. Its encoding is exactly 0x6000000000. -/
def Obligations.InfoAnswersTheMetadata : Prop :=
  (∀ w : CmdWord, decode w = .legal .info ↔ w = 0x6000000000#40) ∧
  AsmCmd.info.instrs = some [.info] ∧
  ∀ s : State, exec .info s =
    .next { s with rsp := some 0x00000404#32, responses := s.responses ++ [0x00000404#32] }

/-- R59: DIGEST, DIGEST_BE and INFO, in any number and any order, change no register, and each answers what it answers the
first time. -/
def Obligations.ReadersAreIdempotent : Prop :=
  ∀ (rs : List Instr) (s : State), (∀ i ∈ rs, i = .digest ∨ i = .digestBe ∨ i = .info) →
    ∃ t : State, execAll rs s = .next t ∧ t.registers = s.registers ∧
      t.pbuf0 = s.pbuf0 ∧ t.pbuf1 = s.pbuf1 ∧ t.pbuf2 = s.pbuf2 ∧
      t.responses = s.responses ++ rs.filterMap (answer (Config.mixer.finalize s.acc s.pending s.tlen))

/-- R142, R245: digests among the commands of a stream do not disturb it. Taking every DIGEST, DIGEST_BE and INFO out of a list of
commands leaves the same registers and the same word trace at the end. -/
def Obligations.DigestsNeverDisturbTheStream : Prop :=
  ∀ (is : List Instr) (s : State), ∃ t u : State,
    execAll is s = .next t ∧ execAll (is.filter fun i => ! i.responds) s = .next u ∧ t.registers = u.registers

/-! ## RESET and CONSTRUCT -/

/-- R171: what RESET writes, what it keeps, and the frame. -/
def Obligations.ResetRestoresTheInitialState : Prop :=
  ∀ s : State, ∃ t : State, exec .reset s = .next t ∧ t.acc = Config.mixer.init s.seed ∧ t.pcnt = 0 ∧ t.tlen = 0 ∧
    t.wordTrace = [] ∧ t.seed = s.seed ∧ t.pending = [] ∧ sameOutside s t

/-- R174: what CONSTRUCT writes, and the frame; the state is the one RESET gives with the new seed, and for an unseeded
variant CONSTRUCT and RESET leave the same accumulator and stream. Its encoding is exactly 0x1000000000, with the seed on
seed_i. -/
def Obligations.ConstructStartsAFreshInstance : Prop :=
  (∀ w : CmdWord, decode w = .legal .construct ↔ w = 0x1000000000#40) ∧
  (∀ v idle : Seed, (AsmCmd.construct v).events idle = some [.command 0x1000000000#40 v]) ∧
  (∀ s : State, ∃ t u : State, exec .construct s = .next t ∧ t.seed = s.seedI ∧ t.acc = Config.mixer.init s.seedI ∧
    t.pcnt = 0 ∧ t.tlen = 0 ∧ t.wordTrace = [] ∧ t.pending = [] ∧ sameOutside s t ∧
    exec .reset { s with seed := s.seedI } = .next u ∧ t.observe = u.observe) ∧
  (∀ (m : Mixer) (v : Seed) (s : State), m.SeedContract .unseeded →
    (s.construct m v).acc = (s.reinit m).acc ∧ (s.construct m v).pending = (s.reinit m).pending ∧
    (s.construct m v).tlen = (s.reinit m).tlen)

/-- R26, R175: only CONSTRUCT and power-on reset write the seed, with the level on seed_i at that moment; no other step of the
machine changes it. -/
def Obligations.OnlyConstructionWritesTheSeed : Prop :=
  ∀ s t : State, step s = .next t →
    t.seed = s.seed ∨
    ∃ (v : Seed) (rest : List HostEvent), t.seed = v ∧
      (s.events = .command 0x1000000000#40 v :: rest ∨ (s.events = .rstRise v :: rest ∧ s.rstN = false))

/-- R172: reset() followed by write(S) and a digest gives what a freshly constructed instance with the same seed gives. -/
def Obligations.ResetThenWriteEqualsFresh : Prop :=
  ∀ (s s' : State) (is : List Instr) (stream : List Byte), beatsOf is stream → s'.seedI = s.seed →
    ∃ t t' : State, execAll (.reset :: is ++ [.digest]) s = .next t ∧
      execAll (.construct :: is ++ [.digest]) s' = .next t' ∧ t.registers = t'.registers ∧ t.rsp = t'.rsp

/-- R75: the level on seed_i has no effect on any command but CONSTRUCT. -/
def Obligations.SeedPortReadOnlyByConstruct : Prop :=
  ∀ (i : Instr) (s : State) (v : Seed), i ≠ .construct →
    ∃ t : State, exec i s = .next t ∧ exec i { s with seedI := v } = .next { t with seedI := v }

/-! ## Hidden state and plug-ins -/

/-- R24, R32: stale bytes are not observable. Two states that agree on the observation give the same observation, responses
included, after every list of commands, whatever their stale bytes hold. R32 names acc, P and tlen; a later RESET reads the seed
too, so the seed and the level on seed_i are part of the premise (log entry 13). -/
def Obligations.StaleBytesNeverObserved : Prop :=
  ∀ (is : List Instr) (s s' : State), s.observe = s'.observe → s.seedI = s'.seedI →
    ∃ t t' : State, execAll is s = .next t ∧ execAll is s' = .next t' ∧ t.observe = t'.observe

/-- R35: packing the accumulator loses nothing, and acc0 is bits [31:0], acc1 bits [63:32]. -/
def Obligations.AccumulatorPacksBothWays : Prop :=
  (∀ a : Acc, Acc.unpack a.pack = a ∧ a.pack.extractLsb' 0 32 = a.acc0 ∧ a.pack.extractLsb' 32 32 = a.acc1) ∧
  (∀ v : BitVec 64, (Acc.unpack v).pack = v)

/-- R191: a pair-state plug-in set starts from the two seed halves in its PAIR_SEED_ORDER. -/
def Obligations.PairSeedOrderDecidesTheStart : Prop :=
  ∀ (m : Mixer) (order : PairSeedOrder) (v : Seed) (s : State), m.SeedContract (.pairState order) →
    (order = .loFirst → (s.construct m v).acc = ⟨v.extractLsb' 0 32, v.extractLsb' 32 32⟩) ∧
    (order = .hiFirst → (s.construct m v).acc = ⟨v.extractLsb' 32 32, v.extractLsb' 0 32⟩)

/-- R198: with a one-word plug-in set acc1 carries no information: no write changes it, and neither the digest nor the next
acc0 depends on it. -/
def Obligations.SingleWordVariantIgnoresAcc1 : Prop :=
  ∀ (m : Mixer) (s : State) (x : Word) (chunk : List Byte), m.WordContract .one →
    (s.writeChunk m chunk).acc1 = s.acc1 ∧
    (({ s with acc1 := x } : State).writeChunk m chunk).acc0 = (s.writeChunk m chunk).acc0 ∧
    ({ s with acc1 := x } : State).finalize m = s.finalize m

/-- R240: a response waits only while rst_ni is high, and every step keeps it so. -/
def Obligations.StepKeepsResponsesOutOfReset : Prop :=
  ∀ s t : State, s.PortsOk → step s = .next t → t.PortsOk

/-! ## Runs of a test program (R249)

A program here is the host's list of command words, each with the level on seed_i. `ps` is the list of the commands its words
decode to. That the host takes each response before its next command is the model's choice (log entry 2); what a launch state
leaves unsaid is in log entry 17. -/

/-- R249: the launch state right after power-on reset with a given seed_i: R240's registers, nothing recorded, no mark. A fall and
a release of rst_ni from any state lead to its observation, and State.reset has the one of the seed it was released with (the free
value of log entry 4). -/
def Obligations.LaunchIsTheStateAfterPowerOnReset : Prop :=
  (∀ v : Seed, (State.launch v).registers = closedForm Config.mixer v [] ∧ (State.launch v).responses = [] ∧
    (State.launch v).fault = none ∧ (State.launch v).cmdReady = true ∧ (State.launch v).IsLaunch) ∧
  (∀ (s : State) (v : Seed), s.events = [.rstFall, .rstRise v] → ∃ t u : State,
    step s = .next t ∧ step t = .next u ∧ u.observe = (State.launch v).observe ∧ u.cmdReady = true ∧ u.events = []) ∧
  State.reset.observe = (State.launch State.reset.seed).observe

/-- R249: from every launch state the run of legal words ends, and its observation is the one the commands give when they are
performed one after another, each with its own seed_i. Every command has been accepted, every response has been taken, and there is
one for each DIGEST, DIGEST_BE and INFO (R74). -/
def Obligations.RunEndsAsItsCommandsDo : Prop :=
  ∀ (program : List (CmdWord × Seed)) (ps : List (Instr × Seed)) (s : State), s.IsLaunch →
    program.map (fun p => (decode p.1, p.2)) = ps.map (fun p => (.legal p.1, p.2)) →
    ∃ t u : State, endState program s = some t ∧ execProgram ps s = .next u ∧
      runObservation program s = some u.observe ∧ t.observe = u.observe ∧
      t.events = [] ∧ t.rsp = none ∧ t.fault = none ∧ t.cmdIndex = s.cmdIndex + program.length ∧
      t.responses.length = s.responses.length + (ps.filter (·.1.responds)).length

/-- R249, R212: a run with an illegal word sets the mark at the first of them, with its reason and the word, and has no valid
end state, however many steps it takes; that the steps after the mark fault is the model's (log entry 1, DEDUCED). -/
def Obligations.MarkedRunHasNoEndState : Prop :=
  ∀ (pre post : List (CmdWord × Seed)) (w : CmdWord) (v : Seed) (r : IllegalReason) (s : State), s.IsLaunch →
    (∀ p ∈ pre, ∃ i : Instr, decode p.1 = .legal i) → decode w = .illegal r →
    let program := pre ++ (w, v) :: post
    (∃ (n : Nat) (t : State), steps n (s.load program) = .next t ∧ t.fault = some ⟨r, w⟩) ∧
    (∀ t : State, ¬ (s.load program).RunsTo t) ∧
    endState program s = none ∧ runObservation program s = none

/-- R249: a run has at most one valid end state, however many steps are taken, and from a launch state `endState` finds it when
there is one. -/
def Obligations.EndStateIsTheOnlyOne : Prop :=
  (∀ s t u : State, s.RunsTo t → s.RunsTo u → t = u) ∧
  (∀ (program : List (CmdWord × Seed)) (s t : State), s.IsLaunch →
    (endState program s = some t ↔ (s.load program).RunsTo t))

/-- R246, R248: a host that goes on to its next command without taking the response leaves the block stalled for good: no number
of steps ends the run, and none faults. That a held-off step answers the same state is the model's choice (log entry 9). -/
def Obligations.UntakenResponseStallsForGood : Prop :=
  ∀ (s : State) (w w' : CmdWord) (v v' : Seed) (rest : List HostEvent) (i : Instr),
    ready s w v (.command w' v' :: rest) → decode w = .legal i → i.responds = true →
    (∃ t : State, t.rsp.isSome = true ∧ t.events = .command w' v' :: rest ∧ ∀ n : Nat, steps (n + 1) s = .next t) ∧
    ∀ t : State, ¬ s.RunsTo t

/-- R27, R28, R29 alone, from any state that meets them (a stated launch state among them, whatever its word trace holds): every
step keeps them. -/
def Obligations.StepKeepsStatedInvariants : Prop :=
  ∀ s t : State, (∃ stream : List Byte, s.MeetsInvariants Config.mixer stream) → step s = .next t →
    ∃ stream : List Byte, t.MeetsInvariants Config.mixer stream

/-- R249, R51, R113: the end state of a run of legal words from a launch state that meets R27 to R29 for a stream meets them for
the stream its commands leave. -/
def Obligations.RunLeavesTheStreamOfItsCommands : Prop :=
  ∀ (program : List (CmdWord × Seed)) (ps : List (Instr × Seed)) (s : State) (stream : List Byte), s.IsLaunch →
    s.MeetsInvariants Config.mixer stream →
    program.map (fun p => (decode p.1, p.2)) = ps.map (fun p => (.legal p.1, p.2)) →
    ∃ t : State, endState program s = some t ∧
      t.MeetsInvariants Config.mixer (ps.foldl (fun bytes p => streamAfter bytes p.1) stream)

/-- R249, R149: the run of the test program `CONSTRUCT seed=v`, `WRITESTR stream`, `DIGEST`, through the port, from every launch
state and for every stream: it ends, its one new response is the digest of the stream in closed form, and its registers and word
trace are those of R113. -/
def Obligations.RunOfAMessageAnswersItsDigest : Prop :=
  ∀ (s : State) (idle v : Seed) (stream : List Byte), s.IsLaunch →
    ∃ (program : List (CmdWord × Seed)) (t : State),
      programWords idle [.construct v, .writeStr stream, .digest] = some program ∧ endState program s = some t ∧
      t.responses = s.responses ++ [Config.mixer.digestOf v stream] ∧
      t.registers = closedForm Config.mixer v stream
end

