-- ==== Sys2Proof/Laws/Operands.lean ====
section
/-!
SUPPORT. The byte and word forms: whole words and tails of a byte list, little-endian assembly, the packing of the accumulator.
-/

namespace Sys2Proof.Machine

theorem wordsOf_short {bs : List Byte} (h : bs.length < 4) : wordsOf bs = [] := by
  match bs, h with
  | [], _ => rfl
  | [_], _ => rfl
  | [_, _], _ => rfl
  | [_, _, _], _ => rfl

theorem wordsOf_length (bs : List Byte) : (wordsOf bs).length = bs.length / 4 := by
  induction bs using wordsOf.induct with
  | case1 b0 b1 b2 b3 rest ih => simp [wordsOf, ih]; omega
  | case2 => rfl
  | case3 => simp [wordsOf]
  | case4 => simp [wordsOf]
  | case5 => simp [wordsOf]

theorem wordsOf_append {xs : List Byte} (ys : List Byte) (h : xs.length % 4 = 0) :
    wordsOf (xs ++ ys) = wordsOf xs ++ wordsOf ys := by
  induction xs using wordsOf.induct with
  | case1 b0 b1 b2 b3 rest ih =>
    have : rest.length % 4 = 0 := by simp at h; omega
    simp [wordsOf, ih this]
  | case2 => rfl
  | case3 => simp at h
  | case4 => simp at h
  | case5 => simp at h

theorem tailOf_length (bs : List Byte) : (tailOf bs).length = bs.length % 4 := by
  simp [tailOf, wholeLen]; omega

theorem wholeLen_le (bs : List Byte) : wholeLen bs ≤ bs.length := by simp [wholeLen]

theorem wholeLen_mod (bs : List Byte) : wholeLen bs % 4 = 0 := by simp [wholeLen]; omega

theorem take_tailOf (bs : List Byte) : bs.take (wholeLen bs) ++ tailOf bs = bs := List.take_append_drop _ _

theorem wordsOf_take_wholeLen (bs : List Byte) : wordsOf (bs.take (wholeLen bs)) = wordsOf bs := by
  have hl : (bs.take (wholeLen bs)).length % 4 = 0 := by
    simpa [Nat.min_eq_left (wholeLen_le bs)] using wholeLen_mod bs
  have ht : wordsOf (tailOf bs) = [] := wordsOf_short (by rw [tailOf_length]; omega)
  conv_rhs => rw [← take_tailOf bs, wordsOf_append _ hl, ht, List.append_nil]

theorem tailOf_short {bs : List Byte} (h : bs.length < 4) : tailOf bs = bs := by
  simp [tailOf, wholeLen, Nat.mod_eq_of_lt h]

theorem tailOf_append {xs : List Byte} (ys : List Byte) (h : xs.length % 4 = 0) :
    tailOf (xs ++ ys) = tailOf ys := by
  have e : wholeLen (xs ++ ys) = xs.length + wholeLen ys := by simp [wholeLen]; omega
  simp [tailOf, e, List.drop_append]

/-- Appending bytes after a tail: the words already complete stay, and only the tail matters. -/
theorem wordsOf_append_tail (xs ys : List Byte) :
    wordsOf (xs ++ ys) = wordsOf xs ++ wordsOf (tailOf xs ++ ys) := by
  have hl : (xs.take (wholeLen xs)).length % 4 = 0 := by
    simpa [Nat.min_eq_left (wholeLen_le xs)] using wholeLen_mod xs
  conv_lhs => rw [← take_tailOf xs, List.append_assoc, wordsOf_append _ hl, wordsOf_take_wholeLen]

theorem tailOf_append_tail (xs ys : List Byte) : tailOf (xs ++ ys) = tailOf (tailOf xs ++ ys) := by
  have hl : (xs.take (wholeLen xs)).length % 4 = 0 := by
    simpa [Nat.min_eq_left (wholeLen_le xs)] using wholeLen_mod xs
  conv_lhs => rw [← take_tailOf xs, List.append_assoc, tailOf_append _ hl]

theorem le32_eq (b0 b1 b2 b3 : Byte) : le32 b0 b1 b2 b3 = lanes b0 b1 b2 b3 := by
  apply BitVec.eq_of_getLsbD_eq
  intro i hi
  simp only [le32, lanes, BitVec.getLsbD_or, BitVec.getLsbD_setWidth, BitVec.getLsbD_shiftLeft, BitVec.getLsbD_append]
  interval_cases i <;> simp

theorem lane_lanes (b0 b1 b2 b3 : Byte) :
    lane (lanes b0 b1 b2 b3) 0 = b0 ∧ lane (lanes b0 b1 b2 b3) 1 = b1 ∧
    lane (lanes b0 b1 b2 b3) 2 = b2 ∧ lane (lanes b0 b1 b2 b3) 3 = b3 := by
  refine ⟨?_, ?_, ?_, ?_⟩ <;>
  · apply BitVec.eq_of_getLsbD_eq
    intro i hi
    simp only [lane, lanes, BitVec.getLsbD_extractLsb', BitVec.getLsbD_append]
    interval_cases i <;> simp

theorem unpack_pack (a : Acc) : Acc.unpack a.pack = a := by
  obtain ⟨a0, a1⟩ := a
  simp only [Acc.unpack, Acc.pack, Acc.mk.injEq]
  constructor <;>
  · apply BitVec.eq_of_getLsbD_eq
    intro i hi
    simp only [BitVec.getLsbD_extractLsb', BitVec.getLsbD_append]
    simp [hi]

theorem pack_unpack (v : BitVec 64) : (Acc.unpack v).pack = v := by
  simp only [Acc.unpack, Acc.pack]
  apply BitVec.eq_of_getLsbD_eq
  intro i hi
  simp only [BitVec.getLsbD_extractLsb', BitVec.getLsbD_append]
  by_cases h : i < 32
  · simp [h]
  · have h' : i - 32 < 32 := by omega
    have h'' : 32 + (i - 32) = i := by omega
    simp [h, h', h'']
end Sys2Proof.Machine
end

