-- ==== Sys2Proof/Laws/Decode.lean ====
section
/-!
SUPPORT. The fields of a command word, put together and taken apart.
-/

namespace Sys2Proof.Machine

/-- Each field of an assembled word reads back, and so do its 35 operand bits. -/
theorem fields_cmd40 (op : BitVec 4) (r : BitVec 1) (nb : BitVec 3) (d : Word) :
  cmdOp (cmd40 op r nb d) = op ∧ cmdRsv (cmd40 op r nb d) = r ∧ cmdNb (cmd40 op r nb d) = nb ∧ cmdData (cmd40 op r nb d) = d ∧ (cmd40 op r nb d).extractLsb' 0 35 = nb ++ d := by
  refine ⟨?_, ?_, ?_, ?_, ?_⟩ <;>
  · apply BitVec.eq_of_getLsbD_eq
    intro i hi
    simp only [cmdOp, cmdRsv, cmdNb, cmdData, cmd40, BitVec.getLsbD_extractLsb', BitVec.getLsbD_append]
    interval_cases i <;> simp

/-- A word is its four fields. -/
theorem cmd40_fields (w : CmdWord) : cmd40 (cmdOp w) (cmdRsv w) (cmdNb w) (cmdData w) = w := by
  apply BitVec.eq_of_getLsbD_eq
  intro i hi
  simp only [cmdOp, cmdRsv, cmdNb, cmdData, cmd40, BitVec.getLsbD_extractLsb', BitVec.getLsbD_append]
  interval_cases i <;> simp

/-- The unused lanes of a short beat are zero. -/
theorem lanes_short (b0 b1 b2 : Byte) : (lanes b0 0#8 0#8 0#8 >>> 8 = 0#32) ∧ lanes b0 b1 0#8 0#8 >>> 16 = 0#32 ∧ lanes b0 b1 b2 0#8 >>> 24 = 0#32 := by
  refine ⟨?_, ?_, ?_⟩ <;>
  · apply BitVec.eq_of_getLsbD_eq
    intro i hi
    simp only [lanes, BitVec.getLsbD_ushiftRight, BitVec.getLsbD_append]
    interval_cases i <;> simp

/-- A data field is its four lanes. -/
theorem lanes_lane (d : Word) : lanes (lane d 0) (lane d 1) (lane d 2) (lane d 3) = d := by
  apply BitVec.eq_of_getLsbD_eq
  intro i hi
  simp only [lane, lanes, BitVec.getLsbD_extractLsb', BitVec.getLsbD_append]
  interval_cases i <;> simp

/-- Where the lanes at and above `nb` are zero, each of them is. -/
theorem lane_of_clean (d : Word) (nb k : Nat) (h : d >>> (8*nb) = 0) (hk : nb ≤ k) : lane d k = 0 := by
  apply BitVec.eq_of_getLsbD_eq
  intro i hi
  have := congrArg (fun x : Word => x.getLsbD (8*k + i - 8*nb)) h
  simp only [BitVec.getLsbD_ushiftRight] at this
  have e : 8 * nb + (8 * k + i - 8 * nb) = 8*k + i := by omega
  rw [e] at this
  simp [lane, this, hi]

/-- A one-bit field that is not 1 is 0. -/
theorem rsv_zero {w : CmdWord} (h : ¬ cmdRsv w = 1#1) : cmdRsv w = 0#1 := by
  revert h; generalize cmdRsv w = r; revert r; decide

end Sys2Proof.Machine
end

