-- ==== Sys2Proof/Laws/State.lean ====
section
/-!
SUPPORT. What each field of the state is after each named update: one lemma per field per update, true by rfl, so that no later
proof unfolds a record update.
-/

namespace Sys2Proof.Machine

section setAcc
variable (a : Acc) (s : State)

@[simp] theorem State.setAcc_acc0 : (s.setAcc a).acc0 = a.acc0 := rfl
@[simp] theorem State.setAcc_acc1 : (s.setAcc a).acc1 = a.acc1 := rfl
@[simp] theorem State.setAcc_pbuf0 : (s.setAcc a).pbuf0 = s.pbuf0 := rfl
@[simp] theorem State.setAcc_pbuf1 : (s.setAcc a).pbuf1 = s.pbuf1 := rfl
@[simp] theorem State.setAcc_pbuf2 : (s.setAcc a).pbuf2 = s.pbuf2 := rfl
@[simp] theorem State.setAcc_pcnt : (s.setAcc a).pcnt = s.pcnt := rfl
@[simp] theorem State.setAcc_tlen : (s.setAcc a).tlen = s.tlen := rfl
@[simp] theorem State.setAcc_seed : (s.setAcc a).seed = s.seed := rfl
@[simp] theorem State.setAcc_fault : (s.setAcc a).fault = s.fault := rfl
@[simp] theorem State.setAcc_wordTrace : (s.setAcc a).wordTrace = s.wordTrace := rfl
@[simp] theorem State.setAcc_responses : (s.setAcc a).responses = s.responses := rfl
@[simp] theorem State.setAcc_rstN : (s.setAcc a).rstN = s.rstN := rfl
@[simp] theorem State.setAcc_rsp : (s.setAcc a).rsp = s.rsp := rfl
@[simp] theorem State.setAcc_seedI : (s.setAcc a).seedI = s.seedI := rfl
@[simp] theorem State.setAcc_events : (s.setAcc a).events = s.events := rfl
@[simp] theorem State.setAcc_cmdIndex : (s.setAcc a).cmdIndex = s.cmdIndex := rfl
@[simp] theorem State.setAcc_staleCount : (s.setAcc a).staleCount = s.staleCount := rfl

end setAcc

section appendPending
variable (bs : List Byte) (s : State)

@[simp] theorem State.appendPending_acc0 : (s.appendPending bs).acc0 = s.acc0 := rfl
@[simp] theorem State.appendPending_acc1 : (s.appendPending bs).acc1 = s.acc1 := rfl
@[simp] theorem State.appendPending_pbuf0 : (s.appendPending bs).pbuf0 = storedAt bs s.pcnt.toNat 0 s.pbuf0 := rfl
@[simp] theorem State.appendPending_pbuf1 : (s.appendPending bs).pbuf1 = storedAt bs s.pcnt.toNat 1 s.pbuf1 := rfl
@[simp] theorem State.appendPending_pbuf2 : (s.appendPending bs).pbuf2 = storedAt bs s.pcnt.toNat 2 s.pbuf2 := rfl
@[simp] theorem State.appendPending_pcnt : (s.appendPending bs).pcnt = s.pcnt + BitVec.ofNat 2 bs.length := rfl
@[simp] theorem State.appendPending_tlen : (s.appendPending bs).tlen = s.tlen := rfl
@[simp] theorem State.appendPending_seed : (s.appendPending bs).seed = s.seed := rfl
@[simp] theorem State.appendPending_fault : (s.appendPending bs).fault = s.fault := rfl
@[simp] theorem State.appendPending_wordTrace : (s.appendPending bs).wordTrace = s.wordTrace := rfl
@[simp] theorem State.appendPending_responses : (s.appendPending bs).responses = s.responses := rfl
@[simp] theorem State.appendPending_rstN : (s.appendPending bs).rstN = s.rstN := rfl
@[simp] theorem State.appendPending_rsp : (s.appendPending bs).rsp = s.rsp := rfl
@[simp] theorem State.appendPending_seedI : (s.appendPending bs).seedI = s.seedI := rfl
@[simp] theorem State.appendPending_events : (s.appendPending bs).events = s.events := rfl
@[simp] theorem State.appendPending_cmdIndex : (s.appendPending bs).cmdIndex = s.cmdIndex := rfl
@[simp] theorem State.appendPending_staleCount : (s.appendPending bs).staleCount = s.staleCount := rfl

end appendPending

section retire
variable (p : Nat) (s : State)

@[simp] theorem State.retire_acc0 : (s.retire p).acc0 = s.acc0 := rfl
@[simp] theorem State.retire_acc1 : (s.retire p).acc1 = s.acc1 := rfl
@[simp] theorem State.retire_pbuf0 : (s.retire p).pbuf0 = s.retiredAt p 0 s.pbuf0 := rfl
@[simp] theorem State.retire_pbuf1 : (s.retire p).pbuf1 = s.retiredAt p 1 s.pbuf1 := rfl
@[simp] theorem State.retire_pbuf2 : (s.retire p).pbuf2 = s.retiredAt p 2 s.pbuf2 := rfl
@[simp] theorem State.retire_pcnt : (s.retire p).pcnt = s.pcnt := rfl
@[simp] theorem State.retire_tlen : (s.retire p).tlen = s.tlen := rfl
@[simp] theorem State.retire_seed : (s.retire p).seed = s.seed := rfl
@[simp] theorem State.retire_fault : (s.retire p).fault = s.fault := rfl
@[simp] theorem State.retire_wordTrace : (s.retire p).wordTrace = s.wordTrace := rfl
@[simp] theorem State.retire_responses : (s.retire p).responses = s.responses := rfl
@[simp] theorem State.retire_rstN : (s.retire p).rstN = s.rstN := rfl
@[simp] theorem State.retire_rsp : (s.retire p).rsp = s.rsp := rfl
@[simp] theorem State.retire_seedI : (s.retire p).seedI = s.seedI := rfl
@[simp] theorem State.retire_events : (s.retire p).events = s.events := rfl
@[simp] theorem State.retire_cmdIndex : (s.retire p).cmdIndex = s.cmdIndex := rfl
@[simp] theorem State.retire_staleCount : (s.retire p).staleCount = s.staleCount + 1 := rfl

end retire

section clearPending
variable (s : State)

@[simp] theorem State.clearPending_acc0 : s.clearPending.acc0 = s.acc0 := rfl
@[simp] theorem State.clearPending_acc1 : s.clearPending.acc1 = s.acc1 := rfl
@[simp] theorem State.clearPending_pbuf0 : s.clearPending.pbuf0 = s.retiredAt s.pcnt.toNat 0 s.pbuf0 := rfl
@[simp] theorem State.clearPending_pbuf1 : s.clearPending.pbuf1 = s.retiredAt s.pcnt.toNat 1 s.pbuf1 := rfl
@[simp] theorem State.clearPending_pbuf2 : s.clearPending.pbuf2 = s.retiredAt s.pcnt.toNat 2 s.pbuf2 := rfl
@[simp] theorem State.clearPending_pcnt : s.clearPending.pcnt = 0 := rfl
@[simp] theorem State.clearPending_tlen : s.clearPending.tlen = s.tlen := rfl
@[simp] theorem State.clearPending_seed : s.clearPending.seed = s.seed := rfl
@[simp] theorem State.clearPending_fault : s.clearPending.fault = s.fault := rfl
@[simp] theorem State.clearPending_wordTrace : s.clearPending.wordTrace = s.wordTrace := rfl
@[simp] theorem State.clearPending_responses : s.clearPending.responses = s.responses := rfl
@[simp] theorem State.clearPending_rstN : s.clearPending.rstN = s.rstN := rfl
@[simp] theorem State.clearPending_rsp : s.clearPending.rsp = s.rsp := rfl
@[simp] theorem State.clearPending_seedI : s.clearPending.seedI = s.seedI := rfl
@[simp] theorem State.clearPending_events : s.clearPending.events = s.events := rfl
@[simp] theorem State.clearPending_cmdIndex : s.clearPending.cmdIndex = s.cmdIndex := rfl
@[simp] theorem State.clearPending_staleCount : s.clearPending.staleCount = s.staleCount + 1 := rfl

end clearPending

section feedWords
variable (m : Mixer) (ws : List Word) (s : State)

@[simp] theorem State.feedWords_acc0 : (s.feedWords m ws).acc0 = (ws.foldl m.upd s.acc).acc0 := rfl
@[simp] theorem State.feedWords_acc1 : (s.feedWords m ws).acc1 = (ws.foldl m.upd s.acc).acc1 := rfl
@[simp] theorem State.feedWords_pbuf0 : (s.feedWords m ws).pbuf0 = s.pbuf0 := rfl
@[simp] theorem State.feedWords_pbuf1 : (s.feedWords m ws).pbuf1 = s.pbuf1 := rfl
@[simp] theorem State.feedWords_pbuf2 : (s.feedWords m ws).pbuf2 = s.pbuf2 := rfl
@[simp] theorem State.feedWords_pcnt : (s.feedWords m ws).pcnt = s.pcnt := rfl
@[simp] theorem State.feedWords_tlen : (s.feedWords m ws).tlen = s.tlen := rfl
@[simp] theorem State.feedWords_seed : (s.feedWords m ws).seed = s.seed := rfl
@[simp] theorem State.feedWords_fault : (s.feedWords m ws).fault = s.fault := rfl
@[simp] theorem State.feedWords_wordTrace : (s.feedWords m ws).wordTrace = s.wordTrace ++ ws := rfl
@[simp] theorem State.feedWords_responses : (s.feedWords m ws).responses = s.responses := rfl
@[simp] theorem State.feedWords_rstN : (s.feedWords m ws).rstN = s.rstN := rfl
@[simp] theorem State.feedWords_rsp : (s.feedWords m ws).rsp = s.rsp := rfl
@[simp] theorem State.feedWords_seedI : (s.feedWords m ws).seedI = s.seedI := rfl
@[simp] theorem State.feedWords_events : (s.feedWords m ws).events = s.events := rfl
@[simp] theorem State.feedWords_cmdIndex : (s.feedWords m ws).cmdIndex = s.cmdIndex := rfl
@[simp] theorem State.feedWords_staleCount : (s.feedWords m ws).staleCount = s.staleCount := rfl

end feedWords

section addLen
variable (n : Nat) (s : State)

@[simp] theorem State.addLen_acc0 : (s.addLen n).acc0 = s.acc0 := rfl
@[simp] theorem State.addLen_acc1 : (s.addLen n).acc1 = s.acc1 := rfl
@[simp] theorem State.addLen_pbuf0 : (s.addLen n).pbuf0 = s.pbuf0 := rfl
@[simp] theorem State.addLen_pbuf1 : (s.addLen n).pbuf1 = s.pbuf1 := rfl
@[simp] theorem State.addLen_pbuf2 : (s.addLen n).pbuf2 = s.pbuf2 := rfl
@[simp] theorem State.addLen_pcnt : (s.addLen n).pcnt = s.pcnt := rfl
@[simp] theorem State.addLen_tlen : (s.addLen n).tlen = s.tlen + BitVec.ofNat 64 n := rfl
@[simp] theorem State.addLen_seed : (s.addLen n).seed = s.seed := rfl
@[simp] theorem State.addLen_fault : (s.addLen n).fault = s.fault := rfl
@[simp] theorem State.addLen_wordTrace : (s.addLen n).wordTrace = s.wordTrace := rfl
@[simp] theorem State.addLen_responses : (s.addLen n).responses = s.responses := rfl
@[simp] theorem State.addLen_rstN : (s.addLen n).rstN = s.rstN := rfl
@[simp] theorem State.addLen_rsp : (s.addLen n).rsp = s.rsp := rfl
@[simp] theorem State.addLen_seedI : (s.addLen n).seedI = s.seedI := rfl
@[simp] theorem State.addLen_events : (s.addLen n).events = s.events := rfl
@[simp] theorem State.addLen_cmdIndex : (s.addLen n).cmdIndex = s.cmdIndex := rfl
@[simp] theorem State.addLen_staleCount : (s.addLen n).staleCount = s.staleCount := rfl

end addLen

section respond
variable (v : Word) (s : State)

@[simp] theorem State.respond_acc0 : (s.respond v).acc0 = s.acc0 := rfl
@[simp] theorem State.respond_acc1 : (s.respond v).acc1 = s.acc1 := rfl
@[simp] theorem State.respond_pbuf0 : (s.respond v).pbuf0 = s.pbuf0 := rfl
@[simp] theorem State.respond_pbuf1 : (s.respond v).pbuf1 = s.pbuf1 := rfl
@[simp] theorem State.respond_pbuf2 : (s.respond v).pbuf2 = s.pbuf2 := rfl
@[simp] theorem State.respond_pcnt : (s.respond v).pcnt = s.pcnt := rfl
@[simp] theorem State.respond_tlen : (s.respond v).tlen = s.tlen := rfl
@[simp] theorem State.respond_seed : (s.respond v).seed = s.seed := rfl
@[simp] theorem State.respond_fault : (s.respond v).fault = s.fault := rfl
@[simp] theorem State.respond_wordTrace : (s.respond v).wordTrace = s.wordTrace := rfl
@[simp] theorem State.respond_responses : (s.respond v).responses = s.responses ++ [v] := rfl
@[simp] theorem State.respond_rstN : (s.respond v).rstN = s.rstN := rfl
@[simp] theorem State.respond_rsp : (s.respond v).rsp = some v := rfl
@[simp] theorem State.respond_seedI : (s.respond v).seedI = s.seedI := rfl
@[simp] theorem State.respond_events : (s.respond v).events = s.events := rfl
@[simp] theorem State.respond_cmdIndex : (s.respond v).cmdIndex = s.cmdIndex := rfl
@[simp] theorem State.respond_staleCount : (s.respond v).staleCount = s.staleCount := rfl

end respond

section initFrom
variable (m : Mixer) (v : Seed) (s : State)

@[simp] theorem State.initFrom_acc0 : (s.initFrom m v).acc0 = (m.init v).acc0 := rfl
@[simp] theorem State.initFrom_acc1 : (s.initFrom m v).acc1 = (m.init v).acc1 := rfl
@[simp] theorem State.initFrom_pbuf0 : (s.initFrom m v).pbuf0 = s.pbuf0 := rfl
@[simp] theorem State.initFrom_pbuf1 : (s.initFrom m v).pbuf1 = s.pbuf1 := rfl
@[simp] theorem State.initFrom_pbuf2 : (s.initFrom m v).pbuf2 = s.pbuf2 := rfl
@[simp] theorem State.initFrom_pcnt : (s.initFrom m v).pcnt = s.pcnt := rfl
@[simp] theorem State.initFrom_tlen : (s.initFrom m v).tlen = 0 := rfl
@[simp] theorem State.initFrom_seed : (s.initFrom m v).seed = s.seed := rfl
@[simp] theorem State.initFrom_fault : (s.initFrom m v).fault = s.fault := rfl
@[simp] theorem State.initFrom_wordTrace : (s.initFrom m v).wordTrace = [] := rfl
@[simp] theorem State.initFrom_responses : (s.initFrom m v).responses = s.responses := rfl
@[simp] theorem State.initFrom_rstN : (s.initFrom m v).rstN = s.rstN := rfl
@[simp] theorem State.initFrom_rsp : (s.initFrom m v).rsp = s.rsp := rfl
@[simp] theorem State.initFrom_seedI : (s.initFrom m v).seedI = s.seedI := rfl
@[simp] theorem State.initFrom_events : (s.initFrom m v).events = s.events := rfl
@[simp] theorem State.initFrom_cmdIndex : (s.initFrom m v).cmdIndex = s.cmdIndex := rfl
@[simp] theorem State.initFrom_staleCount : (s.initFrom m v).staleCount = s.staleCount := rfl

end initFrom

section reinit
variable (m : Mixer) (s : State)

@[simp] theorem State.reinit_acc0 : (s.reinit m).acc0 = (m.init s.seed).acc0 := rfl
@[simp] theorem State.reinit_acc1 : (s.reinit m).acc1 = (m.init s.seed).acc1 := rfl
@[simp] theorem State.reinit_pbuf0 : (s.reinit m).pbuf0 = s.retiredAt s.pcnt.toNat 0 s.pbuf0 := rfl
@[simp] theorem State.reinit_pbuf1 : (s.reinit m).pbuf1 = s.retiredAt s.pcnt.toNat 1 s.pbuf1 := rfl
@[simp] theorem State.reinit_pbuf2 : (s.reinit m).pbuf2 = s.retiredAt s.pcnt.toNat 2 s.pbuf2 := rfl
@[simp] theorem State.reinit_pcnt : (s.reinit m).pcnt = 0 := rfl
@[simp] theorem State.reinit_tlen : (s.reinit m).tlen = 0 := rfl
@[simp] theorem State.reinit_seed : (s.reinit m).seed = s.seed := rfl
@[simp] theorem State.reinit_fault : (s.reinit m).fault = s.fault := rfl
@[simp] theorem State.reinit_wordTrace : (s.reinit m).wordTrace = [] := rfl
@[simp] theorem State.reinit_responses : (s.reinit m).responses = s.responses := rfl
@[simp] theorem State.reinit_rstN : (s.reinit m).rstN = s.rstN := rfl
@[simp] theorem State.reinit_rsp : (s.reinit m).rsp = s.rsp := rfl
@[simp] theorem State.reinit_seedI : (s.reinit m).seedI = s.seedI := rfl
@[simp] theorem State.reinit_events : (s.reinit m).events = s.events := rfl
@[simp] theorem State.reinit_cmdIndex : (s.reinit m).cmdIndex = s.cmdIndex := rfl
@[simp] theorem State.reinit_staleCount : (s.reinit m).staleCount = s.staleCount + 1 := rfl

end reinit

section construct
variable (m : Mixer) (v : Seed) (s : State)

@[simp] theorem State.construct_acc0 : (s.construct m v).acc0 = (m.init v).acc0 := rfl
@[simp] theorem State.construct_acc1 : (s.construct m v).acc1 = (m.init v).acc1 := rfl
@[simp] theorem State.construct_pbuf0 : (s.construct m v).pbuf0 = Config.staleByte s.staleCount 0 := rfl
@[simp] theorem State.construct_pbuf1 : (s.construct m v).pbuf1 = Config.staleByte s.staleCount 1 := rfl
@[simp] theorem State.construct_pbuf2 : (s.construct m v).pbuf2 = Config.staleByte s.staleCount 2 := rfl
@[simp] theorem State.construct_pcnt : (s.construct m v).pcnt = 0 := rfl
@[simp] theorem State.construct_tlen : (s.construct m v).tlen = 0 := rfl
@[simp] theorem State.construct_seed : (s.construct m v).seed = v := rfl
@[simp] theorem State.construct_fault : (s.construct m v).fault = s.fault := rfl
@[simp] theorem State.construct_wordTrace : (s.construct m v).wordTrace = [] := rfl
@[simp] theorem State.construct_responses : (s.construct m v).responses = s.responses := rfl
@[simp] theorem State.construct_rstN : (s.construct m v).rstN = s.rstN := rfl
@[simp] theorem State.construct_rsp : (s.construct m v).rsp = s.rsp := rfl
@[simp] theorem State.construct_seedI : (s.construct m v).seedI = s.seedI := rfl
@[simp] theorem State.construct_events : (s.construct m v).events = s.events := rfl
@[simp] theorem State.construct_cmdIndex : (s.construct m v).cmdIndex = s.cmdIndex := rfl
@[simp] theorem State.construct_staleCount : (s.construct m v).staleCount = s.staleCount + 1 := rfl

end construct

section accept
variable (v : Seed) (es : List HostEvent) (s : State)

@[simp] theorem State.accept_acc0 : (s.accept v es).acc0 = s.acc0 := rfl
@[simp] theorem State.accept_acc1 : (s.accept v es).acc1 = s.acc1 := rfl
@[simp] theorem State.accept_pbuf0 : (s.accept v es).pbuf0 = s.pbuf0 := rfl
@[simp] theorem State.accept_pbuf1 : (s.accept v es).pbuf1 = s.pbuf1 := rfl
@[simp] theorem State.accept_pbuf2 : (s.accept v es).pbuf2 = s.pbuf2 := rfl
@[simp] theorem State.accept_pcnt : (s.accept v es).pcnt = s.pcnt := rfl
@[simp] theorem State.accept_tlen : (s.accept v es).tlen = s.tlen := rfl
@[simp] theorem State.accept_seed : (s.accept v es).seed = s.seed := rfl
@[simp] theorem State.accept_fault : (s.accept v es).fault = s.fault := rfl
@[simp] theorem State.accept_wordTrace : (s.accept v es).wordTrace = s.wordTrace := rfl
@[simp] theorem State.accept_responses : (s.accept v es).responses = s.responses := rfl
@[simp] theorem State.accept_rstN : (s.accept v es).rstN = s.rstN := rfl
@[simp] theorem State.accept_rsp : (s.accept v es).rsp = s.rsp := rfl
@[simp] theorem State.accept_seedI : (s.accept v es).seedI = v := rfl
@[simp] theorem State.accept_events : (s.accept v es).events = es := rfl
@[simp] theorem State.accept_cmdIndex : (s.accept v es).cmdIndex = s.cmdIndex + 1 := rfl
@[simp] theorem State.accept_staleCount : (s.accept v es).staleCount = s.staleCount := rfl

end accept

section raiseIllegal
variable (r : IllegalReason) (w : CmdWord) (s : State)

@[simp] theorem State.raiseIllegal_acc0 : (s.raiseIllegal r w).acc0 = s.acc0 := rfl
@[simp] theorem State.raiseIllegal_acc1 : (s.raiseIllegal r w).acc1 = s.acc1 := rfl
@[simp] theorem State.raiseIllegal_pbuf0 : (s.raiseIllegal r w).pbuf0 = s.pbuf0 := rfl
@[simp] theorem State.raiseIllegal_pbuf1 : (s.raiseIllegal r w).pbuf1 = s.pbuf1 := rfl
@[simp] theorem State.raiseIllegal_pbuf2 : (s.raiseIllegal r w).pbuf2 = s.pbuf2 := rfl
@[simp] theorem State.raiseIllegal_pcnt : (s.raiseIllegal r w).pcnt = s.pcnt := rfl
@[simp] theorem State.raiseIllegal_tlen : (s.raiseIllegal r w).tlen = s.tlen := rfl
@[simp] theorem State.raiseIllegal_seed : (s.raiseIllegal r w).seed = s.seed := rfl
@[simp] theorem State.raiseIllegal_fault : (s.raiseIllegal r w).fault = some ⟨r, w⟩ := rfl
@[simp] theorem State.raiseIllegal_wordTrace : (s.raiseIllegal r w).wordTrace = s.wordTrace := rfl
@[simp] theorem State.raiseIllegal_responses : (s.raiseIllegal r w).responses = s.responses := rfl
@[simp] theorem State.raiseIllegal_rstN : (s.raiseIllegal r w).rstN = s.rstN := rfl
@[simp] theorem State.raiseIllegal_rsp : (s.raiseIllegal r w).rsp = s.rsp := rfl
@[simp] theorem State.raiseIllegal_seedI : (s.raiseIllegal r w).seedI = s.seedI := rfl
@[simp] theorem State.raiseIllegal_events : (s.raiseIllegal r w).events = s.events := rfl
@[simp] theorem State.raiseIllegal_cmdIndex : (s.raiseIllegal r w).cmdIndex = s.cmdIndex := rfl
@[simp] theorem State.raiseIllegal_staleCount : (s.raiseIllegal r w).staleCount = s.staleCount := rfl

end raiseIllegal

section takeResponse
variable (es : List HostEvent) (s : State)

@[simp] theorem State.takeResponse_acc0 : (s.takeResponse es).acc0 = s.acc0 := rfl
@[simp] theorem State.takeResponse_acc1 : (s.takeResponse es).acc1 = s.acc1 := rfl
@[simp] theorem State.takeResponse_pbuf0 : (s.takeResponse es).pbuf0 = s.pbuf0 := rfl
@[simp] theorem State.takeResponse_pbuf1 : (s.takeResponse es).pbuf1 = s.pbuf1 := rfl
@[simp] theorem State.takeResponse_pbuf2 : (s.takeResponse es).pbuf2 = s.pbuf2 := rfl
@[simp] theorem State.takeResponse_pcnt : (s.takeResponse es).pcnt = s.pcnt := rfl
@[simp] theorem State.takeResponse_tlen : (s.takeResponse es).tlen = s.tlen := rfl
@[simp] theorem State.takeResponse_seed : (s.takeResponse es).seed = s.seed := rfl
@[simp] theorem State.takeResponse_fault : (s.takeResponse es).fault = s.fault := rfl
@[simp] theorem State.takeResponse_wordTrace : (s.takeResponse es).wordTrace = s.wordTrace := rfl
@[simp] theorem State.takeResponse_responses : (s.takeResponse es).responses = s.responses := rfl
@[simp] theorem State.takeResponse_rstN : (s.takeResponse es).rstN = s.rstN := rfl
@[simp] theorem State.takeResponse_rsp : (s.takeResponse es).rsp = none := rfl
@[simp] theorem State.takeResponse_seedI : (s.takeResponse es).seedI = s.seedI := rfl
@[simp] theorem State.takeResponse_events : (s.takeResponse es).events = es := rfl
@[simp] theorem State.takeResponse_cmdIndex : (s.takeResponse es).cmdIndex = s.cmdIndex := rfl
@[simp] theorem State.takeResponse_staleCount : (s.takeResponse es).staleCount = s.staleCount := rfl

end takeResponse

section assertReset
variable (es : List HostEvent) (s : State)

@[simp] theorem State.assertReset_acc0 : (s.assertReset es).acc0 = s.acc0 := rfl
@[simp] theorem State.assertReset_acc1 : (s.assertReset es).acc1 = s.acc1 := rfl
@[simp] theorem State.assertReset_pbuf0 : (s.assertReset es).pbuf0 = s.pbuf0 := rfl
@[simp] theorem State.assertReset_pbuf1 : (s.assertReset es).pbuf1 = s.pbuf1 := rfl
@[simp] theorem State.assertReset_pbuf2 : (s.assertReset es).pbuf2 = s.pbuf2 := rfl
@[simp] theorem State.assertReset_pcnt : (s.assertReset es).pcnt = s.pcnt := rfl
@[simp] theorem State.assertReset_tlen : (s.assertReset es).tlen = s.tlen := rfl
@[simp] theorem State.assertReset_seed : (s.assertReset es).seed = s.seed := rfl
@[simp] theorem State.assertReset_fault : (s.assertReset es).fault = s.fault := rfl
@[simp] theorem State.assertReset_wordTrace : (s.assertReset es).wordTrace = s.wordTrace := rfl
@[simp] theorem State.assertReset_responses : (s.assertReset es).responses = s.responses := rfl
@[simp] theorem State.assertReset_rstN : (s.assertReset es).rstN = false := rfl
@[simp] theorem State.assertReset_rsp : (s.assertReset es).rsp = none := rfl
@[simp] theorem State.assertReset_seedI : (s.assertReset es).seedI = s.seedI := rfl
@[simp] theorem State.assertReset_events : (s.assertReset es).events = es := rfl
@[simp] theorem State.assertReset_cmdIndex : (s.assertReset es).cmdIndex = s.cmdIndex := rfl
@[simp] theorem State.assertReset_staleCount : (s.assertReset es).staleCount = s.staleCount := rfl

end assertReset

section present
variable (w : CmdWord) (s : State)

@[simp] theorem State.present_acc0 : (s.present w).acc0 = s.acc0 := rfl
@[simp] theorem State.present_acc1 : (s.present w).acc1 = s.acc1 := rfl
@[simp] theorem State.present_pbuf0 : (s.present w).pbuf0 = s.pbuf0 := rfl
@[simp] theorem State.present_pbuf1 : (s.present w).pbuf1 = s.pbuf1 := rfl
@[simp] theorem State.present_pbuf2 : (s.present w).pbuf2 = s.pbuf2 := rfl
@[simp] theorem State.present_pcnt : (s.present w).pcnt = s.pcnt := rfl
@[simp] theorem State.present_tlen : (s.present w).tlen = s.tlen := rfl
@[simp] theorem State.present_seed : (s.present w).seed = s.seed := rfl
@[simp] theorem State.present_fault : (s.present w).fault = none := rfl
@[simp] theorem State.present_wordTrace : (s.present w).wordTrace = s.wordTrace := rfl
@[simp] theorem State.present_responses : (s.present w).responses = s.responses := rfl
@[simp] theorem State.present_rstN : (s.present w).rstN = true := rfl
@[simp] theorem State.present_rsp : (s.present w).rsp = none := rfl
@[simp] theorem State.present_seedI : (s.present w).seedI = s.seedI := rfl
@[simp] theorem State.present_events : (s.present w).events = .command w s.seedI :: s.events := rfl
@[simp] theorem State.present_cmdIndex : (s.present w).cmdIndex = s.cmdIndex := rfl
@[simp] theorem State.present_staleCount : (s.present w).staleCount = s.staleCount := rfl

end present

section powerOnReset
variable (m : Mixer) (v : Seed) (s : State)

@[simp] theorem State.powerOnReset_acc0 : (s.powerOnReset m v).acc0 = (m.init v).acc0 := rfl
@[simp] theorem State.powerOnReset_acc1 : (s.powerOnReset m v).acc1 = (m.init v).acc1 := rfl
@[simp] theorem State.powerOnReset_pbuf0 : (s.powerOnReset m v).pbuf0 = Config.staleByte s.staleCount 0 := rfl
@[simp] theorem State.powerOnReset_pbuf1 : (s.powerOnReset m v).pbuf1 = Config.staleByte s.staleCount 1 := rfl
@[simp] theorem State.powerOnReset_pbuf2 : (s.powerOnReset m v).pbuf2 = Config.staleByte s.staleCount 2 := rfl
@[simp] theorem State.powerOnReset_pcnt : (s.powerOnReset m v).pcnt = 0 := rfl
@[simp] theorem State.powerOnReset_tlen : (s.powerOnReset m v).tlen = 0 := rfl
@[simp] theorem State.powerOnReset_seed : (s.powerOnReset m v).seed = v := rfl
@[simp] theorem State.powerOnReset_fault : (s.powerOnReset m v).fault = none := rfl
@[simp] theorem State.powerOnReset_wordTrace : (s.powerOnReset m v).wordTrace = [] := rfl
@[simp] theorem State.powerOnReset_responses : (s.powerOnReset m v).responses = [] := rfl
@[simp] theorem State.powerOnReset_rstN : (s.powerOnReset m v).rstN = true := rfl
@[simp] theorem State.powerOnReset_rsp : (s.powerOnReset m v).rsp = none := rfl
@[simp] theorem State.powerOnReset_seedI : (s.powerOnReset m v).seedI = v := rfl
@[simp] theorem State.powerOnReset_events : (s.powerOnReset m v).events = s.events := rfl
@[simp] theorem State.powerOnReset_cmdIndex : (s.powerOnReset m v).cmdIndex = s.cmdIndex := rfl
@[simp] theorem State.powerOnReset_staleCount : (s.powerOnReset m v).staleCount = s.staleCount + 1 := rfl

end powerOnReset

end Sys2Proof.Machine
end

