-- ==== Sys2Proof/Laws/Ops.lean ====
section
/-!
SUPPORT. Once and for all, what each shared operation does: the pending bytes under every update, and everything a write does
(40_write.md R102, R103).
-/

namespace Sys2Proof.Machine

theorem pcnt_cases (p : BitVec 2) : p = 0 ∨ p = 1 ∨ p = 2 ∨ p = 3 := by
  revert p; decide

@[simp] theorem State.pending_length (s : State) : s.pending.length = s.pcnt.toNat := by
  have : s.pcnt.toNat < 4 := s.pcnt.isLt
  simp [State.pending]; omega

theorem State.pending_of_pcnt_zero {s : State} (h : s.pcnt = 0) : s.pending = [] := by
  simp [State.pending, h]

theorem State.pending_appendPending {s : State} {bs : List Byte} (h : s.pcnt.toNat + bs.length ≤ 3) :
    (s.appendPending bs).pending = s.pending ++ bs := by
  simp only [State.pending, State.appendPending_pbuf0, State.appendPending_pbuf1, State.appendPending_pbuf2,
    State.appendPending_pcnt]
  rcases pcnt_cases s.pcnt with hp | hp | hp | hp <;> rw [hp] at h ⊢ <;>
    match bs, h with
    | [], _ => simp [storedAt]
    | [_], h => first | (simp [storedAt]; done) | (simp at h)
    | [_, _], h => first | (simp [storedAt]; done) | (simp at h)
    | [_, _, _], h => first | (simp [storedAt]; done) | (simp at h)
    | _ :: _ :: _ :: _ :: _, h => exact absurd h (by simp only [List.length_cons]; omega)

@[simp] theorem State.pending_clearPending (s : State) : s.clearPending.pending = [] :=
  State.pending_of_pcnt_zero rfl

@[simp] theorem State.pending_feedWords (m : Mixer) (ws : List Word) (s : State) :
    (s.feedWords m ws).pending = s.pending := rfl

@[simp] theorem State.pending_addLen (n : Nat) (s : State) : (s.addLen n).pending = s.pending := rfl

@[simp] theorem State.acc_feedWords (m : Mixer) (ws : List Word) (s : State) :
    (s.feedWords m ws).acc = ws.foldl m.upd s.acc := rfl

@[simp] theorem State.acc_appendPending (bs : List Byte) (s : State) : (s.appendPending bs).acc = s.acc := rfl
@[simp] theorem State.acc_clearPending (s : State) : s.clearPending.acc = s.acc := rfl
@[simp] theorem State.acc_addLen (n : Nat) (s : State) : (s.addLen n).acc = s.acc := rfl

/-- Everything a write of `chunk` does to the registers (R102): the pending bytes and the chunk are taken together, their whole
words go to UPD in order and the rest stays pending; the pieces of state no stream decides stay. -/
structure WriteDone (m : Mixer) (chunk : List Byte) (s t : State) : Prop where
  acc : t.acc = (wordsOf (s.pending ++ chunk)).foldl m.upd s.acc
  wordTrace : t.wordTrace = s.wordTrace ++ wordsOf (s.pending ++ chunk)
  pending : t.pending = tailOf (s.pending ++ chunk)
  pcnt : t.pcnt = s.pcnt + BitVec.ofNat 2 chunk.length
  tlen : t.tlen = s.tlen + BitVec.ofNat 64 chunk.length
  seed : t.seed = s.seed
  fault : t.fault = s.fault
  responses : t.responses = s.responses
  rstN : t.rstN = s.rstN
  rsp : t.rsp = s.rsp
  seedI : t.seedI = s.seedI
  events : t.events = s.events
  cmdIndex : t.cmdIndex = s.cmdIndex

theorem ofNat2_tail (bs : List Byte) : BitVec.ofNat 2 (tailOf bs).length = BitVec.ofNat 2 bs.length := by
  rw [tailOf_length]
  apply BitVec.eq_of_toNat_eq
  simp

theorem State.writeAligned_done (m : Mixer) (rest : List Byte) {s : State} (h : s.pcnt = 0) :
    (s.writeAligned m rest).acc = (wordsOf rest).foldl m.upd s.acc ∧
    (s.writeAligned m rest).wordTrace = s.wordTrace ++ wordsOf rest ∧
    (s.writeAligned m rest).pending = tailOf rest ∧
    (s.writeAligned m rest).pcnt = BitVec.ofNat 2 rest.length := by
  have ht : (tailOf rest).length ≤ 3 := by rw [tailOf_length]; omega
  refine ⟨?_, ?_, ?_, ?_⟩
  · simp [State.writeAligned, wordsOf_take_wholeLen]
  · simp [State.writeAligned, wordsOf_take_wholeLen]
  · rw [State.writeAligned, State.pending_appendPending (by simpa [h] using ht)]
    simp [State.pending_of_pcnt_zero h]
  · simp [State.writeAligned, h, ofNat2_tail]

theorem State.writeChunk_done (m : Mixer) (chunk : List Byte) (s : State) :
    WriteDone m chunk s (s.writeChunk m chunk) := by
  have hlt : s.pcnt.toNat < 4 := s.pcnt.isLt
  unfold State.writeChunk
  simp only
  split
  next h =>
    obtain ⟨ha, hw, hp, hc⟩ := State.writeAligned_done m chunk h
    have hP := State.pending_of_pcnt_zero h
    constructor <;> first | (simp [ha, hw, hp, hc, hP, h]; done) | rfl
  next h =>
    split
    next hs =>
      have hl : (s.pending ++ chunk).length < 4 := by simp; omega
      constructor <;> simp [wordsOf_short hl, tailOf_short hl]
      rw [State.pending_appendPending (by omega)]
    next hs =>
      have hl : (s.pending ++ chunk.take (4 - s.pcnt.toNat)).length = 4 := by simp; omega
      have hsplit : s.pending ++ chunk = (s.pending ++ chunk.take (4 - s.pcnt.toNat)) ++ chunk.drop (4 - s.pcnt.toNat) := by
        rw [List.append_assoc, List.take_append_drop]
      obtain ⟨ha, hw, hp, hc⟩ := State.writeAligned_done m (chunk.drop (4 - s.pcnt.toNat))
        (s := (s.feedWords m (wordsOf (s.pending ++ chunk.take (4 - s.pcnt.toNat)))).clearPending) rfl
      have hW := wordsOf_append (chunk.drop (4 - s.pcnt.toNat)) (by rw [hl]) (xs := s.pending ++ chunk.take (4 - s.pcnt.toNat))
      have hT := tailOf_append (chunk.drop (4 - s.pcnt.toNat)) (by rw [hl]) (xs := s.pending ++ chunk.take (4 - s.pcnt.toNat))
      rw [← hsplit] at hW hT
      constructor
      · simp [ha, hW]
      · simp [hw, hW]
      · simp [hp, hT]
      · simp only [State.addLen_pcnt, hc, List.length_drop]
        apply BitVec.eq_of_toNat_eq
        simp
        omega
      all_goals rfl
end Sys2Proof.Machine
end

