-- ==== Sys2Proof/Laws/PerInstr.lean ====
section
/-!
SUPPORT. A fact about every command as syntax: its encoding fits its row of the opcode table (30_encoding.md R79).
-/

namespace Sys2Proof.Laws.EncodeFitsRow

open Sys2Proof.Machine

def Statement (i : Instr) : Prop := i.row.fits (encode i) = true

theorem construct : Statement .construct := by unfold Statement; decide

theorem reset : Statement .reset := by unfold Statement; decide

theorem writeNb0 : Statement .writeNb0 := by unfold Statement; decide

/-- A word whose bits agree with the row's value wherever the mask is set. -/
theorem fits_of_bits {r : Row} {w : CmdWord}
    (h : ∀ k < 40, (w.getLsbD k && r.mask.getLsbD k) = r.value.getLsbD k) : r.fits w = true := by
  simp only [Row.fits, beq_iff_eq]
  apply BitVec.eq_of_getLsbD_eq
  intro k hk
  rw [BitVec.getLsbD_and]
  exact h k hk

theorem writeNb1 (b0 : Byte) : Statement (.writeNb1 b0) := by
  refine fits_of_bits fun k hk => ?_
  simp only [encode, cmd40, lanes, Instr.row, Row.writeNb1, BitVec.getLsbD_append]
  interval_cases k <;> simp

theorem writeNb2 (b0 b1 : Byte) : Statement (.writeNb2 b0 b1) := by
  refine fits_of_bits fun k hk => ?_
  simp only [encode, cmd40, lanes, Instr.row, Row.writeNb2, BitVec.getLsbD_append]
  interval_cases k <;> simp

theorem writeNb3 (b0 b1 b2 : Byte) : Statement (.writeNb3 b0 b1 b2) := by
  refine fits_of_bits fun k hk => ?_
  simp only [encode, cmd40, lanes, Instr.row, Row.writeNb3, BitVec.getLsbD_append]
  interval_cases k <;> simp

theorem writeNb4 (b0 b1 b2 b3 : Byte) : Statement (.writeNb4 b0 b1 b2 b3) := by
  refine fits_of_bits fun k hk => ?_
  simp only [encode, cmd40, lanes, Instr.row, Row.writeNb4, BitVec.getLsbD_append]
  interval_cases k <;> simp

theorem digest : Statement .digest := by unfold Statement; decide

theorem digestBe : Statement .digestBe := by unfold Statement; decide

theorem info : Statement .info := by unfold Statement; decide

end Sys2Proof.Laws.EncodeFitsRow
end

