-- ==== Sys2Proof/Laws/Step.lean ====
section
/-!
SUPPORT. What a command, a list of commands and a step can do, said once.
-/

namespace Sys2Proof.Machine

/-- The state a command leaves. -/
def after (i : Instr) (s : State) : State :=
  match i with
  | .construct => s.construct Config.mixer s.seedI
  | .reset => s.reinit Config.mixer
  | .writeNb0 => s.writeChunk Config.mixer []
  | .writeNb1 b0 => s.writeChunk Config.mixer [b0]
  | .writeNb2 b0 b1 => s.writeChunk Config.mixer [b0, b1]
  | .writeNb3 b0 b1 b2 => s.writeChunk Config.mixer [b0, b1, b2]
  | .writeNb4 b0 b1 b2 b3 => s.writeChunk Config.mixer [b0, b1, b2, b3]
  | .digest => s.respond (s.finalize Config.mixer)
  | .digestBe => s.respond (bswap32 (s.finalize Config.mixer))
  | .info => s.respond infoWord

theorem exec_after (i : Instr) (s : State) : exec i s = .next (after i s) := by cases i <;> rfl

theorem after_write {i : Instr} (h : i.isWrite = true) (s : State) :
    after i s = s.writeChunk Config.mixer i.beat := by
  cases i <;> first | rfl | cases h

/-- Everything a WRITE does to the registers, and its frame. -/
theorem write_done {i : Instr} (h : i.isWrite = true) (s : State) :
    WriteDone Config.mixer i.beat s (after i s) := after_write h s ▸ State.writeChunk_done _ _ _

theorem execAll_foldl (is : List Instr) (s : State) :
    execAll is s = .next (is.foldl (fun s i => after i s) s) := by
  induction is generalizing s with
  | nil => rfl
  | cons i is ih => simp [execAll, exec_after, ih]

theorem beat_length_le (i : Instr) : i.beat.length ≤ 4 := by cases i <;> simp [Instr.beat]

theorem pcnt_toNat_lt (s : State) : s.pcnt.toNat < 4 := s.pcnt.isLt

/-- Two writes one after the other are the write of the two chunks together. -/
theorem WriteDone.trans {m : Mixer} {c d : List Byte} {s t u : State} (h : WriteDone m c s t) (k : WriteDone m d t u) :
    WriteDone m (c ++ d) s u where
  acc := by
    rw [k.acc, h.acc, h.pending, ← List.append_assoc, wordsOf_append_tail (s.pending ++ c) d, List.foldl_append]
  wordTrace := by
    rw [k.wordTrace, h.wordTrace, h.pending, ← List.append_assoc, wordsOf_append_tail (s.pending ++ c) d,
      List.append_assoc]
  pending := by rw [k.pending, h.pending, ← List.append_assoc, tailOf_append_tail (s.pending ++ c) d]
  pcnt := by rw [k.pcnt, h.pcnt, List.length_append, BitVec.ofNat_add, BitVec.add_assoc]
  tlen := by rw [k.tlen, h.tlen, List.length_append, BitVec.ofNat_add, BitVec.add_assoc]
  seed := k.seed.trans h.seed
  fault := k.fault.trans h.fault
  responses := k.responses.trans h.responses
  rstN := k.rstN.trans h.rstN
  rsp := k.rsp.trans h.rsp
  seedI := k.seedI.trans h.seedI
  events := k.events.trans h.events
  cmdIndex := k.cmdIndex.trans h.cmdIndex

/-- Writing nothing is doing nothing. -/
theorem WriteDone.refl (m : Mixer) (s : State) : WriteDone m [] s s := by
  have h : s.pending.length < 4 := by simpa using pcnt_toNat_lt s
  constructor <;> simp [wordsOf_short h, tailOf_short h]

/-- What a step that answers a next state has done. -/
inductive StepCase (s t : State) : Prop where
  | fall (rest : List HostEvent) (he : s.events = .rstFall :: rest) (ht : t = s.assertReset rest)
  | rise (v : Seed) (rest : List HostEvent) (he : s.events = .rstRise v :: rest)
      (ht : t = s.releaseReset Config.mixer v rest)
  | run (w : CmdWord) (v : Seed) (rest : List HostEvent) (i : Instr) (he : s.events = .command w v :: rest)
      (hf : s.fault = none) (hr : s.cmdReady = true) (hd : decode w = .legal i) (ht : t = after i (s.accept v rest))
  | mark (w : CmdWord) (v : Seed) (rest : List HostEvent) (r : IllegalReason) (he : s.events = .command w v :: rest)
      (hf : s.fault = none) (hr : s.cmdReady = true) (hd : decode w = .illegal r)
      (ht : t = (s.accept v rest).raiseIllegal r w)
  | stall (w : CmdWord) (v : Seed) (rest : List HostEvent) (he : s.events = .command w v :: rest)
      (hf : s.fault = none) (hr : s.cmdReady = false) (ht : t = s)
  | take (rest : List HostEvent) (he : s.events = .takeResponse :: rest) (hf : s.fault = none)
      (ht : t = s.takeResponse rest)
  | idle (he : s.events = []) (hf : s.fault = none) (ht : t = s)

theorem step_case {s t : State} (h : step s = .next t) : StepCase s t := by
  unfold step portStep at h
  split at h
  case h_1 rest he => cases h; exact .fall rest he rfl
  case h_2 v rest he => cases h; exact .rise v rest he rfl
  all_goals
    unfold State.unlessMarked at h
    split at h
    · cases h
  · rename_i w v rest he _ hf
    split at h
    next hr =>
      unfold runWord at h
      split at h
      next i hd => rw [exec_after] at h; cases h; exact .run w v rest i he hf hr hd rfl
      next r hd => cases h; exact .mark w v rest r he hf hr hd rfl
    next hr => cases h; exact .stall w v rest he hf (by simpa using hr) rfl
  · rename_i rest he _ hf
    cases h
    exact .take rest he hf rfl
  · rename_i he _ hf
    cases h
    exact .idle he hf rfl

end Sys2Proof.Machine
end

