-- ==== Sys2Proof/Laws/Run.lean ====
section
/-!
SUPPORT. What a list of steps and a run of a program can do (70_reset_and_hazards.md R249), said once.
-/

namespace Sys2Proof.Machine

section load
variable (program : List (CmdWord × Seed)) (s : State)

@[simp] theorem State.load_acc0 : (s.load program).acc0 = s.acc0 := rfl
@[simp] theorem State.load_acc1 : (s.load program).acc1 = s.acc1 := rfl
@[simp] theorem State.load_pbuf0 : (s.load program).pbuf0 = s.pbuf0 := rfl
@[simp] theorem State.load_pbuf1 : (s.load program).pbuf1 = s.pbuf1 := rfl
@[simp] theorem State.load_pbuf2 : (s.load program).pbuf2 = s.pbuf2 := rfl
@[simp] theorem State.load_pcnt : (s.load program).pcnt = s.pcnt := rfl
@[simp] theorem State.load_tlen : (s.load program).tlen = s.tlen := rfl
@[simp] theorem State.load_seed : (s.load program).seed = s.seed := rfl
@[simp] theorem State.load_fault : (s.load program).fault = s.fault := rfl
@[simp] theorem State.load_wordTrace : (s.load program).wordTrace = s.wordTrace := rfl
@[simp] theorem State.load_responses : (s.load program).responses = s.responses := rfl
@[simp] theorem State.load_rstN : (s.load program).rstN = s.rstN := rfl
@[simp] theorem State.load_rsp : (s.load program).rsp = s.rsp := rfl
@[simp] theorem State.load_seedI : (s.load program).seedI = s.seedI := rfl
@[simp] theorem State.load_events : (s.load program).events = hostEvents program := rfl
@[simp] theorem State.load_cmdIndex : (s.load program).cmdIndex = s.cmdIndex := rfl
@[simp] theorem State.load_staleCount : (s.load program).staleCount = s.staleCount := rfl

end load

@[simp] theorem hostEvents_nil : hostEvents [] = [] := rfl

@[simp] theorem hostEvents_cons (p : CmdWord × Seed) (ps : List (CmdWord × Seed)) :
    hostEvents (p :: ps) = wordEvents p ++ hostEvents ps := rfl

theorem hostEvents_append (ps qs : List (CmdWord × Seed)) : hostEvents (ps ++ qs) = hostEvents ps ++ hostEvents qs := by
  simp [hostEvents]

/-- The pieces of state a run through the port keeps and a command does not read: the host's list, the waiting response and the
index of accepted commands. -/
def State.atPorts (es : List HostEvent) (r : Option Word) (c : Nat) (s : State) : State :=
  { s with events := es, rsp := r, cmdIndex := c }

theorem State.writeChunk_atPorts (m : Mixer) (chunk : List Byte) (s : State) (es : List HostEvent) (r : Option Word)
    (c : Nat) : (s.atPorts es r c).writeChunk m chunk = (s.writeChunk m chunk).atPorts es r c := by
  by_cases h : s.pcnt = 0
  · have h' : (s.atPorts es r c).pcnt = 0 := h
    simp only [State.writeChunk, if_pos h, if_pos h']
    rfl
  · have h' : ¬ (s.atPorts es r c).pcnt = 0 := h
    by_cases k : chunk.length < 4 - s.pcnt.toNat
    · have k' : chunk.length < 4 - (s.atPorts es r c).pcnt.toNat := k
      simp only [State.writeChunk, if_neg h, if_neg h', if_pos k, if_pos k']
      rfl
    · have k' : ¬ chunk.length < 4 - (s.atPorts es r c).pcnt.toNat := k
      simp only [State.writeChunk, if_neg h, if_neg h', if_neg k, if_neg k']
      rfl

/-- A command does the same whatever these are; of them it writes only the response, when it answers. -/
theorem after_atPorts (i : Instr) (s : State) (es : List HostEvent) (r : Option Word) (c : Nat) :
    after i (s.atPorts es r c) = (after i s).atPorts es (if i.responds then (after i s).rsp else r) c := by
  cases i <;> first | rfl | exact State.writeChunk_atPorts _ _ _ _ _ _

/-- What no command writes. -/
theorem after_outside (i : Instr) (s : State) :
    (after i s).rstN = s.rstN ∧ (after i s).fault = s.fault ∧ (after i s).events = s.events ∧
      (after i s).cmdIndex = s.cmdIndex ∧ (after i s).seedI = s.seedI := by
  by_cases h : i.isWrite = true
  · have k := write_done h s
    exact ⟨k.rstN, k.fault, k.events, k.cmdIndex, k.seedI⟩
  · cases i <;> first | exact absurd rfl h | exact ⟨rfl, rfl, rfl, rfl, rfl⟩

@[simp] theorem steps_zero (s : State) : steps 0 s = .next s := rfl

theorem steps_of_step {s t : State} (h : step s = .next t) (n : Nat) : steps (n + 1) s = steps n t := by
  simp [steps, h]

/-- Steps taken one list after the other. -/
theorem steps_add {s t : State} {m : Nat} (h : steps m s = .next t) (n : Nat) : steps (m + n) s = steps n t := by
  induction m generalizing s with
  | zero => cases h; rw [Nat.zero_add]
  | succ m ih =>
    rw [Nat.add_right_comm]
    cases hs : step s with
    | next u =>
      rw [steps_of_step hs] at h ⊢
      exact ih h
    | fault r => simp [steps, hs] at h
    | refused r => simp [steps, hs] at h

/-- Once the host has nothing left, an unmarked block stays as it is. -/
theorem steps_idle {s : State} (he : s.events = []) (hf : s.fault = none) (n : Nat) : steps n s = .next s := by
  induction n with
  | zero => rfl
  | succ n ih =>
    have h : step s = .next s := by simp [step, portStep, he, State.unlessMarked, hf]
    rw [steps_of_step h, ih]

/-- What a valid end state is (R249). -/
theorem State.validEnd_iff (s : State) : s.validEnd = true ↔ s.events = [] ∧ s.rsp = none ∧ s.fault = none := by
  simp [State.validEnd, State.runEnded, State.faultMark, and_assoc]

/-- What `endState` answers: the state the steps end in, when it is a valid end. -/
theorem endState_eq_some {program : List (CmdWord × Seed)} {s t : State} :
    endState program s = some t ↔
      steps (hostEvents program).length (s.load program) = .next t ∧ t.validEnd = true := by
  unfold endState
  split
  next u hu =>
    rw [hu]
    by_cases h : u.validEnd = true
    · simp only [h, if_true, Option.some.injEq, Host.Outcome.next.injEq]
      exact ⟨fun e => ⟨e, e ▸ h⟩, And.left⟩
    · simp only [h, Bool.false_eq_true, if_false, Host.Outcome.next.injEq]
      exact ⟨nofun, fun ⟨e, k⟩ => absurd (e ▸ k) h⟩
  next r hr => simp [hr]
  next r hr => simp [hr]

/-- A launch state can take its first command: out of reset, nothing waiting, unmarked, the host's list not yet given. -/
theorem State.IsLaunch.ready {s : State} (h : s.IsLaunch) :
    s.rstN = true ∧ s.rsp = none ∧ s.fault = none ∧ s.events = [] := by
  obtain ⟨v, rfl⟩ | ⟨_, -, h⟩ := h
  · exact ⟨rfl, rfl, rfl, rfl⟩
  · exact h

end Sys2Proof.Machine
end

