-- ==== Sys2Proof/Tests/Slice0.lean ====
section
/-!
SUPPORT. Small tests, each expected result from spec/ (95_test_vectors.md unless a comment says otherwise), and one witness for
each statement with hypotheses. Digests use TP, the spec's own toy mixer (95_test_vectors.md section 2.1).
-/

namespace Sys2Proof.Tests

open Sys2Proof Sys2Proof.Machine Sys2Proof.Statements

/-! ## Well-formedness: an ill-formed term for each check -/

/-- Reserved opcodes 0x0 and 0x7 (R81). -/
theorem test_wf_reserved_opcode :
    CmdWord.wf 0x0000000000#40 = false ∧ CmdWord.wf 0x7000000000#40 = false := by decide

/-- The reserved bit (R80). -/
theorem test_wf_reserved_bit : CmdWord.wf 0x4800000000#40 = false := by decide

/-- nb = 5 (R82). -/
theorem test_wf_nb_range : CmdWord.wf 0x3500000000#40 = false := by decide

/-- An operand on a command without one (R80). -/
theorem test_wf_nonzero_operand : CmdWord.wf 0x4000000001#40 = false := by decide

/-- Lane 3 set with nb = 3 (R80). -/
theorem test_wf_dirty_lane : CmdWord.wf 0x33FF000000#40 = false := by decide

theorem test_wf_legal_word : CmdWord.wf 0x34FFFFFFFF#40 = true := by decide

/-- Five bytes in one beat (R86). -/
theorem test_wf_beat : Beat.wf [1, 2, 3, 4, 5] = false ∧ Beat.wf [1, 2, 3, 4] = true := by decide

/-! ## Decoding and encoding: words written out bit by bit from R72 and R79 -/

theorem test_decode_construct :
    decode 0b0001000000000000000000000000000000000000#40 = .legal .construct := by decide

theorem test_decode_reset :
    decode 0b0010000000000000000000000000000000000000#40 = .legal .reset := by decide

theorem test_decode_writeNb0 :
    decode 0b0011000000000000000000000000000000000000#40 = .legal .writeNb0 := by decide

/-- op 3, nb 1, lane 0 = 0x61. -/
theorem test_decode_writeNb1 :
    decode 0b0011000100000000000000000000000001100001#40 = .legal (.writeNb1 0x61) := by decide

/-- op 3, nb 2, lane 1 = 0x65, lane 0 = 0x68. -/
theorem test_decode_writeNb2 :
    decode 0b0011001000000000000000000110010101101000#40 = .legal (.writeNb2 0x68 0x65) := by decide

theorem test_decode_writeNb3 : decode 0x33006F6C6C#40 = .legal (.writeNb3 0x6C 0x6C 0x6F) := by decide

theorem test_decode_writeNb4 :
    decode 0b0011010001101100011011000110010101101000#40 = .legal (.writeNb4 0x68 0x65 0x6C 0x6C) := by decide

theorem test_decode_digest :
    decode 0b0100000000000000000000000000000000000000#40 = .legal .digest := by decide

theorem test_decode_digestBe :
    decode 0b0101000000000000000000000000000000000000#40 = .legal .digestBe := by decide

theorem test_decode_info :
    decode 0b0110000000000000000000000000000000000000#40 = .legal .info := by decide

/-- Section 3: opcode 0xF wins over bit 35, and bit 35 over the operand. -/
theorem test_decode_reason_order :
    decode 0xF800000000#40 = .illegal .reservedOpcode ∧ decode 0x4800000001#40 = .illegal .reservedBit ∧
      decode 0x3800000000#40 = .illegal .reservedBit := by decide

/-- Section 3. -/
theorem test_decode_reasons :
    decode 0x2100000000#40 = .illegal .nonzeroOperand ∧ decode 0x3161000000#40 = .illegal .dirtyLane ∧
      decode 0x3500000000#40 = .illegal .nbRange := by decide

/-- R86's example and section 3. -/
theorem test_encode_write :
    encode (.writeNb4 0x65 0x6C 0x6C 0x6F) = 0x346F6C6C65#40 ∧ encode (.writeNb2 0x68 0x65) = 0x3200006568#40 := by
  decide

theorem test_decodeTableWord : decodeTableWord 40 0x3100000065 = some (.writeNb1 0x65) ∧
    decodeTableWord 40 0x3200FF6568 = none := by decide

/-! ## The mixer TP, and states -/

/-- TP (section 2.1), at the mixer's ports: acc0 is the low half. -/
def tp : Mixer where
  initAccI s := s
  updAccI a w := (a.extractLsb' 32 32 + w) ++ ((a.extractLsb' 0 32).rotateLeft 5 ^^^ w)
  pfAccI a tail cnt _ :=
    if cnt = 0 then a else a.extractLsb' 32 32 ++ ((a.extractLsb' 0 32).rotateLeft 5 ^^^ tail.setWidth 32)
  avDigestI a len := a.extractLsb' 0 32 ^^^ a.extractLsb' 32 32 ^^^ len.extractLsb' 0 32

/-- TP with the halves the other way round: a HI_FIRST pair-state start (R191). -/
def tpHi : Mixer := { tp with initAccI := fun s => s.extractLsb' 0 32 ++ s.extractLsb' 32 32 }

/-- A one-word mixer (R198): acc1 always 0 at the start, kept and not read. -/
def oneWord : Mixer where
  initAccI _ := 0
  updAccI a w := a.extractLsb' 32 32 ++ (a.extractLsb' 0 32 ^^^ w)
  pfAccI a tail _ _ := a.extractLsb' 32 32 ++ (a.extractLsb' 0 32 ^^^ tail.setWidth 32)
  avDigestI a len := a.extractLsb' 0 32 ^^^ len.extractLsb' 0 32

/-- A state with the pending bytes of section 4.1 and this many of them valid. -/
def pend (p : BitVec 2) : State where
  acc0 := 0
  acc1 := 0
  pbuf0 := 0xA0
  pbuf1 := 0xA1
  pbuf2 := 0xA2
  pcnt := p
  tlen := 7
  seed := 0
  fault := none
  wordTrace := []
  responses := []
  rstN := true
  rsp := none
  seedI := 0x0000000200000001
  events := []
  cmdIndex := 0
  staleCount := 0

/-- Program P3's start (section 5). -/
def p3 : State :=
  { pend 2 with acc0 := 0x11111111, acc1 := 0x22222222, pbuf0 := 0xAA, pbuf1 := 0xBB, tlen := 0xFFFFFFFFFFFFFFFE }

/-- A state with this waiting for the host's next event. -/
def facing (e : HostEvent) : State := { pend 0 with events := [e] }

/-- A state whose registers are those of the empty stream. -/
def fresh : State := (pend 0).construct Config.mixer 5

/-- In reset, with the release next. -/
def released : State := { facing (.rstRise 5) with rstN := false }

def isNext (o : Host.Outcome State Fault Refusal) : Bool :=
  match o with
  | .next _ => true
  | .fault _ => false
  | .refused _ => false

/-! ## WRITE -/

/-- Section 4.1, row (1, 4): the word completes from the pending byte first. -/
theorem test_write_1_4 : ((pend 1).writeChunk tp [0xB0, 0xB1, 0xB2, 0xB3]).wordTrace = [0xB2B1B0A0] ∧
    ((pend 1).writeChunk tp [0xB0, 0xB1, 0xB2, 0xB3]).pending = [0xB3] := by decide

/-- Section 4.1, row (3, 4): all three pending bytes are written after a word. -/
theorem test_write_3_4 : ((pend 3).writeChunk tp [0xB0, 0xB1, 0xB2, 0xB3]).wordTrace = [0xB0A2A1A0] ∧
    ((pend 3).writeChunk tp [0xB0, 0xB1, 0xB2, 0xB3]).pending = [0xB1, 0xB2, 0xB3] := by decide

/-- Section 4.1, row (2, 2): the count comes back to 0. -/
theorem test_write_2_2 : ((pend 2).writeChunk tp [0xB0, 0xB1]).wordTrace = [0xB1B0A1A0] ∧
    ((pend 2).writeChunk tp [0xB0, 0xB1]).pcnt = 0 := by decide

/-- Section 4.1, row (1, 2): no word, appended behind the pending byte. -/
theorem test_write_1_2 : ((pend 1).writeChunk tp [0xB0, 0xB1]).wordTrace = [] ∧
    ((pend 1).writeChunk tp [0xB0, 0xB1]).pending = [0xA0, 0xB0, 0xB1] := by decide

/-- Section 4.1, row (3, 3), and row (0, 1). -/
theorem test_write_3_3 : ((pend 3).writeChunk tp [0xB0, 0xB1, 0xB2]).pending = [0xB1, 0xB2] ∧
    ((pend 0).writeChunk tp [0xB0]).pending = [0xB0] := by decide

/-- P3 line 2: the early return counts too. -/
theorem test_write_tlen_early : (p3.writeChunk tp [0xCC]).tlen = 0xFFFFFFFFFFFFFFFF := by decide

/-- P3 line 3 from line 2's state: the accumulator and the wrap of tlen (R108). -/
theorem test_write_tlen_wraps :
    let s : State := { p3 with pbuf2 := 0xCC, pcnt := 3, tlen := 0xFFFFFFFFFFFFFFFF }
    (s.writeChunk tp [0xDD, 0xEE, 0xFF]).acc = ⟨0xFFEE9988, 0xFFEEDDCC⟩ ∧
      (s.writeChunk tp [0xDD, 0xEE, 0xFF]).tlen = 2 := by decide

/-- Section 4.2: a chunk longer than a beat, the word trace and the rest (R102). -/
theorem test_write_long_chunk :
    let s := (pend 0).writeChunk tp [0x68, 0x65, 0x6C, 0x6C, 0x6F, 0x68, 0x65, 0x6C, 0x6C, 0x6F]
    s.wordTrace = [0x6C6C6568, 0x6C65686F] ∧ s.pending = [0x6C, 0x6F] := by decide

/-! ## DIGEST, DIGEST_BE, INFO -/

/-- R151: 'hello' under TP. -/
theorem test_digest_hello :
    ({ pend 1 with acc0 := 0x6C6C6568, acc1 := 0x6C6C6568, pbuf0 := 0x6F, tlen := 5 } : State).finalize tp =
      0xE1E0C80F#32 := by decide

/-- P3's note: a DIGEST of the stated state, and section 4.2's 'abc' (three pending bytes). -/
theorem test_digest_tails : p3.finalize tp = 0xFFFF4454#32 ∧
    ({ pend 3 with pbuf0 := 0x61, pbuf1 := 0x62, pbuf2 := 0x63, tlen := 3 } : State).finalize tp = 0x00636262#32 := by
  decide

/-- R151: DIGEST_BE of 'hello', and its serialized bytes. -/
theorem test_digestBe_hello : bswap32 0xE1E0C80F#32 = 0x0FC8E0E1#32 ∧
    digestBytes 0xE1E0C80F#32 = [0xE1, 0xE0, 0xC8, 0x0F] := by decide

/-- R147. -/
theorem test_info : infoWord = 0x00000404#32 := by decide

/-- R149 under TP: 'abcde' from section 4.2, and the empty digests of section 4.4. -/
theorem test_digestOf : tp.digestOf 0 [0x61, 0x62, 0x63, 0x64, 0x65] = 0xE80F2E2D#32 ∧
    tp.emptyDigest 0x0000000200000001 = 3#32 ∧ tp.emptyDigest 0x0123456789ABCDEF = 0x88888888#32 := by decide

/-! ## CONSTRUCT and RESET -/

/-- Section 4.5, under TP. -/
theorem test_construct : ((pend 2).construct tp 0x0123456789ABCDEF).acc = ⟨0x89ABCDEF, 0x01234567⟩ ∧
    ((pend 2).construct tp 0x0123456789ABCDEF).seed = 0x0123456789ABCDEF := by decide

/-- R173, under TP. -/
theorem test_reset :
    let s := ({ pend 3 with seed := 0x0000000200000001, tlen := 3, acc0 := 9 } : State).reinit tp
    s.acc = ⟨1, 2⟩ ∧ s.pcnt = 0 ∧ s.tlen = 0 ∧ s.seed = 0x0000000200000001 := by decide

/-! ## Steps -/

/-- Every row runs as the first command after reset. -/
theorem test_first_command_runs :
    [0x1000000000, 0x2000000000, 0x3000000000, 0x3100000061, 0x3200006568, 0x33006F6C6C, 0x346C6C6568, 0x4000000000,
      0x5000000000, 0x6000000000].all (fun w => isNext (step (State.reset.withFetchWord 40 w))) = true := by decide

/-- A step of INFO: the response waits (R74). -/
theorem test_step_info : ∃ t, step ((pend 0).withFetchWord 40 0x6000000000) = .next t ∧ t.rsp = some 0x404 ∧
    t.cmdReady = false := ⟨_, rfl, rfl, rfl⟩

/-- P4 line 2: the illegal word is recorded with its reason. -/
theorem test_step_illegal : ∃ t, step ((pend 2).withFetchWord 40 0x3500000000) = .next t ∧
    t.fault = some ⟨.nbRange, 0x3500000000⟩ ∧ t.pending = [0xA0, 0xA1] := ⟨_, rfl, rfl, rfl⟩

/-- The seed of P1 line 1 is sampled at acceptance (R75). -/
theorem test_step_construct : ∃ t, step (facing (.command 0x1000000000 0x0000000200000001)) = .next t ∧
    t.seed = 0x0000000200000001 := ⟨_, rfl, rfl⟩

/-! ## The host's side -/

/-- R87: 'hello' is two beats. -/
theorem test_writeStr : writeStrBeats [0x68, 0x65, 0x6C, 0x6C, 0x6F] = [[0x68, 0x65, 0x6C, 0x6C], [0x6F]] := by decide

/-- R85: `WRITE [0x61, 98, 'c'] ; x` -/
theorem test_parse_write : parseLine
    ['W', 'R', 'I', 'T', 'E', ' ', '[', '0', 'x', '6', '1', ',', ' ', '9', '8', ',', ' ', '\'', 'c', '\'', ']', ' ', ';', 'x'] =
      some (some (.write [0x61, 0x62, 0x63])) := by decide

/-- R85: `CONSTRUCT seed=0x0200000001` -/
theorem test_parse_construct : parseLine
    ['C', 'O', 'N', 'S', 'T', 'R', 'U', 'C', 'T', ' ', 's', 'e', 'e', 'd', '=', '0', 'x', '2', '0', '0', '0', '0', '0', '0',
      '0', '1'] = some (some (.construct 0x0000000200000001)) := by decide

/-- R85: two commands, one a line. -/
theorem test_parse_program : parseProgram ['R', 'E', 'S', 'E', 'T', '\n', 'W', 'R', 'I', 'T', 'E', ' ', '"', 'e', '"'] =
    some [.reset, .write [0x65]] := by decide

/-! ## Runs -/

/-- What can be said of the end state of a run without evaluating the mixer. -/
def endsWith (o : Option State) (f : State → Bool) : Bool :=
  match o with
  | some t => f t
  | none => false

/-- R249 with R147: INFO from a launch; the response is taken and recorded. -/
theorem test_run_info : endsWith (endState [(0x6000000000, 0)] (.launch 5)) fun t =>
    decide (t.responses = [0x404]) && t.rsp.isNone && decide (t.events = []) := by decide

/-- Section 4.1, row (1, 4), as a run from a stated state. -/
theorem test_run_write : endsWith (endState [(0x34B3B2B1B0, 0)] (pend 1)) fun t =>
    decide (t.wordTrace = [0xB2B1B0A0]) && decide (t.pending = [0xB3]) := by decide

/-- R249: the seed_i value of the list is the one that CONSTRUCT samples. -/
theorem test_run_construct : endsWith (endState [(0x1000000000, 9), (0x3100000061, 7)] (.launch 5)) fun t =>
    decide (t.seed = 9) && decide (t.pending = [0x61]) := by decide

/-- P4: the marked run has no valid end state, the illegal word last or not. -/
theorem test_run_marked : endState [(0x3500000000, 0)] (pend 2) = none ∧
    endState [(0x3500000000, 0), (0x2000000000, 0)] (pend 2) = none := by decide

/-- R86: the words of `CONSTRUCT seed=9` and `WRITE "e"`. -/
theorem test_programWords :
    programWords 7 [.construct 9, .write [0x65]] = some [(0x1000000000, 9), (0x3100000065, 7)] := by decide

/-! ## Witnesses: a concrete case that meets the hypotheses of each statement that has any -/

theorem witness_LegalWordIsItsEncoding : decode 0x3300FFFFFF#40 = .legal (.writeNb3 0xFF 0xFF 0xFF) := by decide

theorem witness_LegalExactlyWhenOneRowFits : decode 0x346C6C6568#40 = .legal (.writeNb4 0x68 0x65 0x6C 0x6C) := by
  decide

theorem witness_AssemblerEncodesEveryLine : ([1, 2, 3, 4] : List Byte).length ≤ 4 := by decide

theorem witness_WriteStrExpandsIntoBeats : ([] : List Byte) = [] ∧ ([1, 2, 3, 4] : List Byte) ≠ [] ∧
    ([1, 2, 3, 4, 5] : List Byte) ≠ [] := by decide

theorem witness_StepRunsTheDecodedCommand :
    ready (facing (.command 0x6000000000 1)) 0x6000000000 1 [] ∧ decode 0x6000000000#40 = .legal .info := by
  exact ⟨⟨rfl, rfl, rfl, rfl⟩, rfl⟩

theorem witness_FetchedWordRunsNext : decodeTableWord 40 0x4000000000 = some .digest := by decide

/-- The last clause too: nothing follows, or a taken response does. -/
theorem witness_IllegalWordMarksAndStops :
    ready (facing (.command 0x0000000000 1)) 0x0000000000 1 [] ∧ decode 0x0000000000#40 = .illegal .reservedOpcode ∧
      (∀ e : HostEvent, ([] : List HostEvent).head? = some e → e ≠ .rstFall ∧ ∀ v : Seed, e ≠ .rstRise v) ∧
      (∀ e : HostEvent, [HostEvent.takeResponse].head? = some e → e ≠ .rstFall ∧ ∀ v : Seed, e ≠ .rstRise v) := by
  refine ⟨⟨rfl, rfl, rfl, rfl⟩, rfl, by simp, ?_⟩
  intro e h
  cases h
  simp

/-- Both outcomes: a fall keeps the mark, the release clears it. -/
theorem witness_FaultMarkIsSticky :
    (∃ t, step { facing .rstFall with fault := some ⟨.nbRange, 0x3500000000⟩ } = .next t ∧
      t.fault = some ⟨.nbRange, 0x3500000000⟩) ∧
    (∃ t, step { facing (.rstRise 1) with fault := some ⟨.nbRange, 0x3500000000⟩, rstN := false } = .next t ∧
      t.fault = none) := ⟨⟨_, rfl, rfl⟩, ⟨_, rfl, rfl⟩⟩

theorem witness_EveryLegalCommandCompletes : decode 0x3000000000#40 = .legal .writeNb0 := by decide

/-- A response waits while this is the host's next event. -/
def holding (e : HostEvent) : State := { facing e with rsp := some 5 }

theorem witness_WaitingResponseHoldsCommandsOff :
    (holding (.command 0x2000000000 1)).rsp = some 5 ∧ (holding (.command 0x2000000000 1)).fault = none ∧
    (holding (.command 0x2000000000 1)).events = [.command 0x2000000000 1] ∧
    (holding .takeResponse).rstN = true ∧ (holding .takeResponse).events = [.takeResponse] := by decide

theorem witness_ReleasePerformsConstruction : released.rstN = false ∧ released.events = [.rstRise 5] := by decide

theorem witness_ResetErasesTheRun :
    let s : State := { pend 3 with events := [.rstFall, .rstRise 5], rsp := some 1 }
    let s' : State := { pend 0 with events := [.rstFall, .rstRise 5] }
    s.events = [.rstFall, .rstRise 5] ∧ s'.events = [.rstFall, .rstRise 5] := by decide

theorem witness_IdleHoldsEverything : (pend 1).events = [] ∧ (pend 1).fault = none := by decide

/-- Both sides of 4 ≤ pcnt + nb, where they meet. -/
theorem witness_WriteGivesAlignerForm :
    (Instr.writeNb3 1 2 3).isWrite = true ∧ 4 ≤ (pend 1).pcnt.toNat + (Instr.writeNb3 1 2 3).beat.length ∧
    (Instr.writeNb2 1 2).isWrite = true ∧ ¬ 4 ≤ (pend 1).pcnt.toNat + (Instr.writeNb2 1 2).beat.length := by decide

theorem witness_AlignmentMuxPlacesEveryByte :
    (Instr.writeNb1 9).isWrite = true ∧ 4 ≤ (pend 3).pcnt.toNat + (Instr.writeNb1 9).beat.length ∧
    (pend 2).pcnt.toNat + (Instr.writeNb1 9).beat.length < 4 := by decide

theorem witness_PendingStateMachine :
    (Instr.writeNb4 1 2 3 4).isWrite = true ∧
    ready (facing (.command 0x7000000000 1)) 0x7000000000 1 [] ∧ decode 0x7000000000#40 = .illegal .reservedOpcode ∧
    (released.rstN = false ∧ released.events = [.rstRise 5]) :=
  ⟨rfl, ⟨rfl, rfl, rfl, rfl⟩, rfl, rfl, rfl⟩

theorem witness_WriteCountsEveryByte :
    ({ pend 0 with tlen := 0xFFFFFFFFFFFFFFFF } : State).tlen.toNat = 2 ^ 64 - 1 ∧
    (Instr.writeNb1 7).isWrite = true ∧ (Instr.writeNb1 7).beat.length = 1 := by decide

theorem witness_FullAlignedBeatPassesThrough : (pend 0).pcnt = 0 := by decide

theorem witness_WriteWorkedExample :
    let s : State := { pend 1 with pbuf0 := 0x68, tlen := 1 }
    s.pcnt = 1 ∧ s.pbuf0 = 0x68 ∧ s.tlen = 1 := by decide

theorem fresh_reflects : fresh.Reflects Config.mixer [] := rfl

theorem witness_StepKeepsStreamInvariant :
    fresh.Inv Config.mixer ∧ ∃ t, step fresh = .next t := ⟨⟨[], fresh_reflects⟩, _, rfl⟩

theorem witness_CommandTakesTheStreamForward : fresh.Reflects Config.mixer [] := fresh_reflects

theorem beats_hello : beatsOf [.writeNb4 0x68 0x65 0x6C 0x6C, .writeNb1 0x6F] [0x68, 0x65, 0x6C, 0x6C, 0x6F] := by
  refine ⟨?_, rfl⟩
  simp [Instr.isWrite]

theorem witness_ClosedFormAfterBeats :
    (Instr.writeNb2 1 2).isWrite = true ∧ fresh.Reflects Config.mixer [] ∧
    beatsOf [.writeNb4 0x68 0x65 0x6C 0x6C, .writeNb1 0x6F] [0x68, 0x65, 0x6C, 0x6C, 0x6F] ∧
    (released.rstN = false ∧ released.events = [.rstRise 5]) := ⟨rfl, fresh_reflects, beats_hello, rfl, rfl⟩

theorem witness_EverySplitOfAChunkAgrees :
    beatsOf [.writeNb4 0x68 0x65 0x6C 0x6C, .writeNb1 0x6F] [0x68, 0x65, 0x6C, 0x6C, 0x6F] ∧ beatsOf [] [] :=
  ⟨beats_hello, by simp [beatsOf]⟩

theorem witness_DigestClosedForm :
    beatsOf [.writeNb4 0x68 0x65 0x6C 0x6C, .writeNb1 0x6F] [0x68, 0x65, 0x6C, 0x6C, 0x6F] ∧
    (released.rstN = false ∧ released.events = [.rstRise 5]) := ⟨beats_hello, rfl, rfl⟩

theorem witness_ReadersAreIdempotent :
    ∀ i ∈ [Instr.digest, .info, .digestBe, .digest], i = .digest ∨ i = .digestBe ∨ i = .info := by decide

/-- All three outcomes: a step that keeps the seed, a CONSTRUCT and a release. -/
theorem witness_OnlyConstructionWritesTheSeed :
    (∃ t, step (facing (.command 0x2000000000 9)) = .next t ∧ t.seed = 0) ∧
    (∃ t, step (facing (.command 0x1000000000 9)) = .next t ∧ t.seed = 9) ∧
    (∃ t, step { facing (.rstRise 8) with rstN := false } = .next t ∧ t.seed = 8) :=
  ⟨⟨_, rfl, rfl⟩, ⟨_, rfl, rfl⟩, ⟨_, rfl, rfl⟩⟩

theorem witness_ResetThenWriteEqualsFresh :
    beatsOf [.writeNb4 0x68 0x65 0x6C 0x6C, .writeNb1 0x6F] [0x68, 0x65, 0x6C, 0x6C, 0x6F] ∧
    (pend 1).seedI = ({ pend 0 with seed := 0x0000000200000001 } : State).seed := ⟨beats_hello, rfl⟩

theorem witness_SeedPortReadOnlyByConstruct : Instr.reset ≠ .construct := by decide

/-- Two states that differ, but only in stale bytes. -/
theorem witness_StaleBytesNeverObserved :
    let s' : State := { pend 1 with pbuf1 := 0, pbuf2 := 0xFF }
    pend 1 ≠ s' ∧ (pend 1).observe = s'.observe ∧ (pend 1).seedI = s'.seedI := by decide

theorem witness_PairSeedOrderDecidesTheStart :
    tp.SeedContract (.pairState .loFirst) ∧ tpHi.SeedContract (.pairState .hiFirst) := by
  refine ⟨fun _ => rfl, fun s => ?_⟩
  have h := unpack_pack (seedHalves .hiFirst s)
  exact h

theorem witness_ConstructStartsAFreshInstance : oneWord.SeedContract .unseeded := fun _ _ => rfl

theorem witness_SingleWordVariantIgnoresAcc1 : oneWord.WordContract .one := by
  have hpack : ∀ a1 a0 : Word, Acc.unpack (a1 ++ a0) = ⟨a0, a1⟩ := fun a1 a0 => unpack_pack ⟨a0, a1⟩
  have hlo : ∀ a : Acc, a.pack.extractLsb' 0 32 = a.acc0 := fun a => congrArg Acc.acc0 (unpack_pack a)
  have hhi : ∀ a : Acc, a.pack.extractLsb' 32 32 = a.acc1 := fun a => congrArg Acc.acc1 (unpack_pack a)
  refine ⟨fun _ _ => rfl, ?_, ?_, ?_, ?_, ?_⟩
  · intro a w; simp only [Mixer.upd, oneWord, hpack, hhi]
  · intro a t l _; simp only [Mixer.pfin, oneWord, hpack, hhi]
  · intro a a' w h; simp only [Mixer.upd, oneWord, hpack, hlo, h]
  · intro a a' t l _ h; simp only [Mixer.pfin, oneWord, hpack, hlo, h]
  · intro a a' l h; simp only [Mixer.aval, oneWord, hlo, h]

/-- With a response waiting, so that the premise says something. -/
theorem witness_StepKeepsResponsesOutOfReset :
    let s : State := { facing .rstFall with rsp := some 5 }
    s.PortsOk ∧ s.rsp.isSome = true ∧ ∃ t, step s = .next t := ⟨fun _ => rfl, rfl, _, rfl⟩

/-- A stated launch state: what is stated of `fresh` is the empty stream. -/
theorem fresh_isLaunch : fresh.IsLaunch := .inr ⟨[], ⟨rfl, rfl, rfl, rfl⟩, rfl, rfl, rfl, rfl⟩

theorem witness_LaunchIsTheStateAfterPowerOnReset :
    ({ pend 3 with events := [.rstFall, .rstRise 5] } : State).events = [.rstFall, .rstRise 5] := by decide

/-- Both kinds of launch state, and a list with a command that answers. -/
theorem witness_RunEndsAsItsCommandsDo :
    (State.launch 5).IsLaunch ∧ fresh.IsLaunch ∧
    [((0x6000000000 : CmdWord), (3 : Seed)), (0x1000000000, 9)].map (fun p => (decode p.1, p.2)) =
      [(Instr.info, (3 : Seed)), (.construct, 9)].map (fun p => (.legal p.1, p.2)) :=
  ⟨.inl ⟨5, rfl⟩, fresh_isLaunch, by decide⟩

theorem witness_MarkedRunHasNoEndState :
    (State.launch 5).IsLaunch ∧
    (∀ p ∈ [((0x3100000061 : CmdWord), (0 : Seed))], ∃ i : Instr, decode p.1 = .legal i) ∧
    decode 0x3500000000#40 = .illegal .nbRange :=
  ⟨.inl ⟨5, rfl⟩, by simp only [List.mem_singleton, forall_eq]; exact ⟨.writeNb1 0x61, rfl⟩, rfl⟩

/-- A state with a run to its end: one INFO, taken. -/
theorem witness_EndStateIsTheOnlyOne :
    (State.launch 5).IsLaunch ∧ ∃ t, ((State.launch 5).load [(0x6000000000, 0)]).RunsTo t :=
  ⟨.inl ⟨5, rfl⟩, _, 2, rfl, rfl⟩

theorem witness_UntakenResponseStallsForGood :
    ready { pend 0 with events := [.command 0x6000000000 1, .command 0x2000000000 1] } 0x6000000000 1
      [.command 0x2000000000 1] ∧ decode 0x6000000000#40 = .legal .info ∧ Instr.info.responds = true :=
  ⟨⟨rfl, rfl, rfl, rfl⟩, rfl, rfl⟩

/-- A state that meets R27 to R29 with a word trace that is not the stream's. -/
theorem witness_StepKeepsStatedInvariants :
    (∃ stream, ({ fresh with wordTrace := [7] } : State).MeetsInvariants Config.mixer stream) ∧
    ∃ t, step { fresh with wordTrace := [7] } = .next t := ⟨⟨[], rfl, rfl, rfl, rfl⟩, _, rfl⟩

theorem witness_RunLeavesTheStreamOfItsCommands :
    fresh.IsLaunch ∧ fresh.MeetsInvariants Config.mixer [] ∧
    [((0x3100000061 : CmdWord), (0 : Seed))].map (fun p => (decode p.1, p.2)) =
      [(Instr.writeNb1 0x61, (0 : Seed))].map (fun p => (.legal p.1, p.2)) :=
  ⟨fresh_isLaunch, ⟨rfl, rfl, rfl, rfl⟩, by decide⟩

theorem witness_RunOfAMessageAnswersItsDigest : (State.launch 5).IsLaunch ∧ fresh.IsLaunch :=
  ⟨.inl ⟨5, rfl⟩, fresh_isLaunch⟩

end Sys2Proof.Tests
end

/-! # What the registers and the observation are after each operation

SUPPORT. `State.registers`, `State.observe` and the invariants of 10_state.md R27 to R29 under every command and every step, each
said once. -/

namespace Sys2Proof.Machine

/-! ## The registers a stream decides -/

section registers
variable (m : Mixer) (v : Seed) (es : List HostEvent) (s : State)

@[simp] theorem State.registers_accept : (s.accept v es).registers = s.registers := rfl
@[simp] theorem State.registers_assertReset : (s.assertReset es).registers = s.registers := rfl
@[simp] theorem State.registers_takeResponse : (s.takeResponse es).registers = s.registers := rfl
@[simp] theorem State.registers_raiseIllegal (r : IllegalReason) (w : CmdWord) :
    (s.raiseIllegal r w).registers = s.registers := rfl
@[simp] theorem State.registers_respond (d : Word) : (s.respond d).registers = s.registers := rfl
@[simp] theorem State.registers_construct : (s.construct m v).registers = closedForm m v [] := rfl
@[simp] theorem State.registers_reinit : (s.reinit m).registers = closedForm m s.seed [] := rfl
@[simp] theorem State.registers_powerOnReset : (s.powerOnReset m v).registers = closedForm m v [] := rfl
@[simp] theorem State.registers_reset : State.reset.registers = closedForm Config.mixer Config.powerOnSeed [] := rfl

/-- A rise of rst_ni initialises a block whose pin was low, and is no edge on a pin that was high (R240). -/
theorem State.registers_releaseReset :
    (s.releaseReset m v es).registers = if s.rstN then s.registers else closedForm m v [] := by
  unfold State.releaseReset
  split
  · rfl
  · exact s.registers_powerOnReset m v

end registers

/-! ## The invariants R27, R28 and R29 -/

section invariants
variable {m : Mixer} {v : Seed} {stream chunk : List Byte} {s t : State}

/-- `Reflects` is the stated invariants with the word trace of R113. -/
theorem State.reflects_iff :
    s.Reflects m stream ↔ s.MeetsInvariants m stream ∧ s.wordTrace = wordsOf stream := by
  simp [State.Reflects, State.MeetsInvariants, State.registers, closedForm, and_assoc]

theorem State.Reflects.meetsInvariants (hs : s.Reflects m stream) : s.MeetsInvariants m stream :=
  (State.reflects_iff.1 hs).1

theorem State.reflects_of_registers (h : s.registers = closedForm m v stream) : s.Reflects m stream := by
  have hseed : s.seed = v := congrArg Registers.seed h
  rw [State.Reflects, hseed, h]

theorem State.Reflects.of_registers_eq (hs : s.Reflects m stream) (h : t.registers = s.registers) :
    t.Reflects m stream :=
  State.reflects_of_registers (h.trans hs)

theorem State.MeetsInvariants.of_registers_eq (hs : s.MeetsInvariants m stream) (h : t.registers = s.registers) :
    t.MeetsInvariants m stream := by
  simp only [State.registers, Registers.mk.injEq] at h
  obtain ⟨hacc, hpending, hpcnt, htlen, hseed, -⟩ := h
  rw [State.MeetsInvariants, hacc, hpending, hpcnt, htlen, hseed]
  exact hs

/-- A write takes R27, R28 and R29 from a stream to the stream with the chunk appended (R113). -/
theorem WriteDone.meetsInvariants (h : WriteDone m chunk s t) (hs : s.MeetsInvariants m stream) :
    t.MeetsInvariants m (stream ++ chunk) := by
  obtain ⟨hacc, hpending, hpcnt, htlen⟩ := hs
  refine ⟨?_, ?_, ?_, ?_⟩
  · rw [h.acc, h.seed, hacc, hpending, wordsOf_append_tail stream chunk, List.foldl_append]
  · rw [h.pending, hpending, ← tailOf_append_tail]
  · rw [h.pcnt, hpcnt, List.length_append, BitVec.ofNat_add]
  · rw [h.tlen, htlen, List.length_append, BitVec.ofNat_add]

theorem WriteDone.reflects (h : WriteDone m chunk s t) (hs : s.Reflects m stream) :
    t.Reflects m (stream ++ chunk) := by
  have htrace : s.wordTrace = wordsOf stream := congrArg Registers.wordTrace hs
  have hpending : s.pending = tailOf stream := congrArg Registers.pending hs
  refine State.reflects_iff.2 ⟨h.meetsInvariants hs.meetsInvariants, ?_⟩
  rw [h.wordTrace, htrace, hpending, ← wordsOf_append_tail]

end invariants

/-! ## A command and the stream -/

/-- The three things a command can do to the registers, with what it does to the stream (R51): start the empty stream, leave
both, or write its beat. -/
theorem after_registers_cases (i : Instr) (s : State) (stream : List Byte) :
    ((after i s).registers = closedForm Config.mixer (after i s).seed [] ∧ streamAfter stream i = []) ∨
    ((after i s).registers = s.registers ∧ streamAfter stream i = stream) ∨
    (WriteDone Config.mixer i.beat s (after i s) ∧ streamAfter stream i = stream ++ i.beat) := by
  cases i with
  | construct => exact .inl ⟨s.registers_construct Config.mixer s.seedI, rfl⟩
  | reset => exact .inl ⟨s.registers_reinit Config.mixer, rfl⟩
  | digest | digestBe | info => exact .inr (.inl ⟨s.registers_respond _, rfl⟩)
  | writeNb0 => exact .inr (.inr ⟨write_done rfl s, (List.append_nil stream).symm⟩)
  | writeNb1 | writeNb2 | writeNb3 | writeNb4 => exact .inr (.inr ⟨write_done rfl s, rfl⟩)

theorem after_meetsInvariants {s : State} {stream : List Byte} (i : Instr)
    (hs : s.MeetsInvariants Config.mixer stream) :
    (after i s).MeetsInvariants Config.mixer (streamAfter stream i) := by
  obtain ⟨h, hstream⟩ | ⟨h, hstream⟩ | ⟨h, hstream⟩ := after_registers_cases i s stream <;> rw [hstream]
  · exact State.Reflects.meetsInvariants h
  · exact hs.of_registers_eq h
  · exact h.meetsInvariants hs

theorem after_reflects {s : State} {stream : List Byte} (i : Instr) (hs : s.Reflects Config.mixer stream) :
    (after i s).Reflects Config.mixer (streamAfter stream i) := by
  obtain ⟨h, hstream⟩ | ⟨h, hstream⟩ | ⟨h, hstream⟩ := after_registers_cases i s stream <;> rw [hstream]
  · exact h
  · exact hs.of_registers_eq h
  · exact h.reflects hs

/-- The seed register is CONSTRUCT's alone to write (R175). -/
theorem after_seed (i : Instr) (s : State) : (after i s).seed = if i = .construct then s.seedI else s.seed := by
  cases i with
  | construct | reset | digest | digestBe | info => rfl
  | writeNb0 | writeNb1 | writeNb2 | writeNb3 | writeNb4 => exact (write_done rfl s).seed

/-! ## A step and the registers -/

/-- The three things a step can do to the registers: leave them, initialise them at the release of rst_ni, or run the command
of the accepted word. -/
theorem step_registers_cases {s t : State} (h : step s = .next t) :
    t.registers = s.registers ∨
    (∃ (v : Seed) (rest : List HostEvent), s.events = .rstRise v :: rest ∧ s.rstN = false ∧
      t.registers = closedForm Config.mixer v []) ∨
    (∃ (w : CmdWord) (v : Seed) (rest : List HostEvent) (i : Instr), s.events = .command w v :: rest ∧
      decode w = .legal i ∧ t = after i (s.accept v rest)) := by
  cases step_case h with
  | rise v rest he ht =>
    have hreg := State.registers_releaseReset Config.mixer v rest s
    rw [← ht] at hreg
    cases hpin : s.rstN with
    | true => exact .inl (by simpa [hpin] using hreg)
    | false => exact .inr (.inl ⟨v, rest, he, rfl, by simpa [hpin] using hreg⟩)
  | run w v rest i he _ _ hd ht => exact .inr (.inr ⟨w, v, rest, i, he, hd, ht⟩)
  | fall _ _ ht | mark _ _ _ _ _ _ _ _ ht | stall _ _ _ _ _ _ ht | take _ _ _ ht | idle _ _ ht =>
    exact .inl (by simp [ht])

/-! ## The one word of CONSTRUCT -/

theorem decodeBare_eq_legal {w : CmdWord} {i j : Instr} :
    decodeBare w j = .legal i ↔ j = i ∧ w.extractLsb' 0 35 = 0#35 := by
  unfold decodeBare
  split <;> simp [*]

theorem isWrite_of_decodeWrite {w : CmdWord} {i : Instr} (h : decodeWrite w = .legal i) : i.isWrite = true := by
  simp only [decodeWrite, decodeBeat] at h
  split_ifs at h <;> cases h <;> rfl

/-- A word without the reserved bit and without an operand is its opcode alone. -/
theorem eq_cmd40_of_bare {w : CmdWord} (hr : ¬ cmdRsv w = 1#1) (h : w.extractLsb' 0 35 = 0#35) :
    w = cmd40 (cmdOp w) 0#1 0#3 0#32 := by
  obtain ⟨-, -, -, -, hoperand⟩ := fields_cmd40 (cmdOp w) (cmdRsv w) (cmdNb w) (cmdData w)
  rw [cmd40_fields, h] at hoperand
  have hnb : cmdNb w = 0#3 := by
    rw [← BitVec.extractLsb'_append_eq_left (a := cmdNb w) (b := cmdData w), ← hoperand]; decide
  have hdata : cmdData w = 0#32 := by
    rw [← BitVec.extractLsb'_append_eq_right (a := cmdNb w) (b := cmdData w), ← hoperand]; decide
  calc w = cmd40 (cmdOp w) (cmdRsv w) (cmdNb w) (cmdData w) := (cmd40_fields w).symm
    _ = cmd40 (cmdOp w) 0#1 0#3 0#32 := by rw [rsv_zero hr, hnb, hdata]

theorem word_of_decode_construct {w : CmdWord} (h : decode w = .legal .construct) : w = 0x1000000000#40 := by
  unfold decode at h
  split_ifs at h with _ hrsv hop
  · obtain ⟨-, hoperand⟩ := decodeBare_eq_legal.1 h
    rw [eq_cmd40_of_bare hrsv hoperand, hop]
    rfl
  · exact absurd (decodeBare_eq_legal.1 h).1 (by decide)
  · exact absurd (isWrite_of_decodeWrite h) (by decide)
  all_goals exact absurd (decodeBare_eq_legal.1 h).1 (by decide)

/-! ## What a command does to an observation

An observation holds no stale byte (R24), and what a command does to it is a function of it, the command and the level on
seed_i: so no stale byte reaches a later one (R32). -/

/-- Both initialisations, as an observation sees them (R171, R174). -/
def Observation.init (m : Mixer) (v : Seed) (o : Observation) : Observation :=
  { o with acc := m.init v, pending := [], pcnt := 0, tlen := 0, seed := v, wordTrace := [] }

/-- A write, as an observation sees it (R102). -/
def Observation.write (m : Mixer) (chunk : List Byte) (o : Observation) : Observation :=
  { o with
    acc := (wordsOf (o.pending ++ chunk)).foldl m.upd o.acc
    pending := tailOf (o.pending ++ chunk)
    pcnt := o.pcnt + BitVec.ofNat 2 chunk.length
    tlen := o.tlen + BitVec.ofNat 64 chunk.length
    wordTrace := o.wordTrace ++ wordsOf (o.pending ++ chunk) }

/-- A response, as an observation sees it (R74). -/
def Observation.respond (d : Word) (o : Observation) : Observation := { o with responses := o.responses ++ [d] }

/-- The digest, read off an observation (R141). -/
def Observation.digest (m : Mixer) (o : Observation) : Word := m.finalize o.acc o.pending o.tlen

/-- A command, as an observation sees it, with the level on seed_i. -/
def Observation.after (seedI : Seed) (o : Observation) : Instr → Observation
  | .construct => o.init Config.mixer seedI
  | .reset => o.init Config.mixer o.seed
  | .digest => o.respond (o.digest Config.mixer)
  | .digestBe => o.respond (bswap32 (o.digest Config.mixer))
  | .info => o.respond infoWord
  | i => o.write Config.mixer i.beat

theorem WriteDone.observe {m : Mixer} {chunk : List Byte} {s t : State} (h : WriteDone m chunk s t) :
    t.observe = s.observe.write m chunk := by
  simp [State.observe, Observation.write, h.acc, h.pending, h.pcnt, h.tlen, h.seed, h.responses, h.wordTrace, h.fault]

theorem observe_after (i : Instr) (s : State) : (after i s).observe = s.observe.after s.seedI i := by
  cases i with
  | construct | reset | digest | digestBe | info => rfl
  | writeNb0 | writeNb1 | writeNb2 | writeNb3 | writeNb4 => exact (write_done rfl s).observe

theorem after_seedI (i : Instr) (s : State) : (after i s).seedI = s.seedI := by
  obtain ⟨-, -, -, -, h⟩ := after_outside i s
  exact h

/-- A list of commands takes an observation to an observation. -/
theorem observe_foldl_after (is : List Instr) (s : State) :
    (is.foldl (fun s i => after i s) s).observe = is.foldl (Observation.after s.seedI) s.observe := by
  induction is generalizing s with
  | nil => rfl
  | cons i is ih => rw [List.foldl_cons, List.foldl_cons, ih, after_seedI, observe_after]

/-! ## The statements about the state (10_state.md) -/

/-- Settles O26: a step leaves the registers, starts the empty stream, or runs a command, which takes the stream forward. -/
theorem stepKeepsStreamInvariant : Obligations.StepKeepsStreamInvariant := by
  rintro s t ⟨stream, hs⟩ h
  obtain hsame | ⟨v, rest, -, -, hinit⟩ | ⟨w, v, rest, i, -, -, rfl⟩ := step_registers_cases h
  · exact ⟨stream, hs.of_registers_eq hsame⟩
  · exact ⟨[], State.reflects_of_registers hinit⟩
  · exact ⟨streamAfter stream i, after_reflects i (hs.of_registers_eq (s.registers_accept v rest))⟩

/-- Settles O54: as O26, with the invariants that do not speak of the word trace. -/
theorem stepKeepsStatedInvariants : Obligations.StepKeepsStatedInvariants := by
  rintro s t ⟨stream, hs⟩ h
  obtain hsame | ⟨v, rest, -, -, hinit⟩ | ⟨w, v, rest, i, -, -, rfl⟩ := step_registers_cases h
  · exact ⟨stream, hs.of_registers_eq hsame⟩
  · exact ⟨[], (State.reflects_of_registers hinit).meetsInvariants⟩
  · exact ⟨streamAfter stream i, after_meetsInvariants i (hs.of_registers_eq (s.registers_accept v rest))⟩

/-- Settles O41: of the commands only CONSTRUCT writes the seed, and it has one word. -/
theorem onlyConstructionWritesTheSeed : Obligations.OnlyConstructionWritesTheSeed := by
  intro s t h
  obtain hsame | ⟨v, rest, he, hlow, hinit⟩ | ⟨w, v, rest, i, he, hd, rfl⟩ := step_registers_cases h
  · exact .inl (congrArg Registers.seed hsame)
  · exact .inr ⟨v, rest, congrArg Registers.seed hinit, .inr ⟨he, hlow⟩⟩
  · by_cases hi : i = .construct
    · subst hi
      rw [word_of_decode_construct hd] at he
      exact .inr ⟨v, rest, rfl, .inl he⟩
    · exact .inl (by rw [after_seed, if_neg hi, State.accept_seed])

/-- Settles O44: the observation after the commands is a function of the one before them and of seed_i. -/
theorem staleBytesNeverObserved : Obligations.StaleBytesNeverObserved := by
  intro is s s' hobs hseedI
  refine ⟨_, _, execAll_foldl is s, execAll_foldl is s', ?_⟩
  rw [observe_foldl_after, observe_foldl_after, hobs, hseedI]

/-- Settles O45: packing and unpacking undo each other, and the two words are the fields of what is unpacked. -/
theorem accumulatorPacksBothWays : Obligations.AccumulatorPacksBothWays :=
  ⟨fun a => ⟨unpack_pack a, congrArg Acc.acc0 (unpack_pack a), congrArg Acc.acc1 (unpack_pack a)⟩, pack_unpack⟩

/-- Settles O17: each value is the field of State.reset. -/
theorem resetStateValues : Obligations.ResetStateValues := ⟨rfl, rfl, rfl, rfl, rfl, rfl, rfl, rfl⟩

/-- Settles O27: State.reset's registers are the closed form of the empty stream, and rst_ni is high there. -/
theorem resetMeetsTheInvariants : Obligations.ResetMeetsTheInvariants :=
  ⟨State.reflects_of_registers State.registers_reset, fun _ => rfl⟩

end Sys2Proof.Machine

/-! # The next command, and commands that only read

SUPPORT. What a step does with a word the block can accept, and the whole state after any list of DIGEST, DIGEST_BE and INFO. -/

namespace Sys2Proof.Machine

open Sys2Proof.Statements

/-! ## The word a step runs -/

theorem State.cmdReady_iff (s : State) : s.cmdReady = true ↔ s.rstN = true ∧ s.rsp = none := by
  simp [State.cmdReady]

theorem State.unlessMarked_of_unmarked {s : State} (h : s.fault = none) (o : Host.Outcome State Fault Refusal) :
    s.unlessMarked o = o := by
  simp [State.unlessMarked, h]

theorem runWord_of_legal {w : CmdWord} {i : Instr} (h : decode w = .legal i) (s : State) : runWord w s = exec i s := by
  simp [runWord, h]

/-- A block that can accept the presented word accepts it and runs it (R71). -/
theorem step_of_ready {s : State} {w : CmdWord} {v : Seed} {rest : List HostEvent} (h : ready s w v rest) :
    step s = runWord w (s.accept v rest) := by
  obtain ⟨hevents, hrstN, hrsp, hfault⟩ := h
  have hready : s.cmdReady = true := s.cmdReady_iff.2 ⟨hrstN, hrsp⟩
  simp [step, portStep, hevents, State.unlessMarked_of_unmarked hfault, hready]

theorem step_of_ready_of_legal {s : State} {w : CmdWord} {v : Seed} {rest : List HostEvent} {i : Instr}
    (h : ready s w v rest) (hd : decode w = .legal i) : step s = exec i (s.accept v rest) :=
  (step_of_ready h).trans (runWord_of_legal hd _)

/-- Presenting a word makes the block ready for it (log entry 7). -/
theorem State.ready_present (w : CmdWord) (s : State) : ready (s.present w) w s.seedI s.events :=
  ⟨rfl, rfl, rfl, rfl⟩

theorem decode_tableWord {nbits w : Nat} {i : Instr} (h : decodeTableWord nbits w = some i) :
    decode (tableWord nbits w) = .legal i := by
  unfold decodeTableWord at h
  split_ifs at h
  split at h
  next j hd => rw [hd, Option.some.inj h]
  next => cases h

/-! ## Commands that only read -/

/-- These responses given in order: the last of them waits, and no register is written (R74). -/
def State.respondAll (ds : List Word) (s : State) : State :=
  { s with rsp := ds.getLast?.or s.rsp, responses := s.responses ++ ds }

@[simp] theorem State.respondAll_nil (s : State) : s.respondAll [] = s := by
  simp [State.respondAll]

@[simp] theorem State.respondAll_respond (d : Word) (ds : List Word) (s : State) :
    (s.respond d).respondAll ds = s.respondAll (d :: ds) := by
  simp [State.respondAll, State.respond, List.getLast?_cons]

@[simp] theorem State.finalize_respond (m : Mixer) (d : Word) (s : State) : (s.respond d).finalize m = s.finalize m :=
  rfl

/-- A reader does nothing but give its answer (R142, R147). -/
theorem after_reader {i : Instr} (h : i = .digest ∨ i = .digestBe ∨ i = .info) (s : State) :
    ∃ d : Word, answer (s.finalize Config.mixer) i = some d ∧ after i s = s.respond d := by
  obtain rfl | rfl | rfl := h
  · exact ⟨_, rfl, rfl⟩
  · exact ⟨_, rfl, rfl⟩
  · exact ⟨infoWord, rfl, rfl⟩

/-- Readers in any number and order give their answers in the first state, because no answer changes the digest of the next
(R59). -/
theorem foldl_after_readers {rs : List Instr} (h : ∀ i ∈ rs, i = .digest ∨ i = .digestBe ∨ i = .info) (s : State) :
    rs.foldl (fun s i => after i s) s = s.respondAll (rs.filterMap (answer (s.finalize Config.mixer))) := by
  induction rs generalizing s with
  | nil => simp
  | cons i rs ih =>
    obtain ⟨hi, hrs⟩ := List.forall_mem_cons.1 h
    obtain ⟨d, hanswer, hafter⟩ := after_reader hi s
    rw [List.foldl_cons, hafter, ih hrs, State.finalize_respond, State.respondAll_respond,
      List.filterMap_cons_some hanswer]

/-! ## The statements about the next command and the stream (20_memory.md) -/

/-- Settles O28: no command faults, and what each leaves reflects the stream it makes. -/
theorem commandTakesTheStreamForward : Obligations.CommandTakesTheStreamForward :=
  fun i s _ hs => ⟨after i s, exec_after i s, after_reflects i hs⟩

/-- Settles O37: the readers leave the first state with their answers added, so every register is the first state's. -/
theorem readersAreIdempotent : Obligations.ReadersAreIdempotent := by
  intro rs s hreaders
  refine ⟨_, execAll_foldl rs s, ?_⟩
  rw [foldl_after_readers hreaders]
  exact ⟨rfl, rfl, rfl, rfl, rfl⟩

/-- Settles O8: a ready block runs the word, and a legal word runs as its command. -/
theorem stepRunsTheDecodedCommand : Obligations.StepRunsTheDecodedCommand :=
  fun _ _ _ _ _ hready hd => step_of_ready_of_legal hready hd

/-- Settles O9: withFetchWord makes the block ready for the word, and accepting it restores the host's list and seed_i. -/
theorem fetchedWordRunsNext : Obligations.FetchedWordRunsNext :=
  fun s nbits w _ h => step_of_ready_of_legal (s.ready_present (tableWord nbits w)) (decode_tableWord h)

end Sys2Proof.Machine

/-! # The encoder and the decoder

SUPPORT. A word decodes to a command exactly when it is that command's encoding (30_encoding.md R79, R80, R83), and a row of the
opcode table fits a word exactly when the word decodes to a command of that row. -/

namespace Sys2Proof.Machine

/-! ## Decoding an encoding -/

section fields
variable (op : BitVec 4) (r : BitVec 1) (nb : BitVec 3) (d : Word)

@[simp] theorem cmdOp_cmd40 : cmdOp (cmd40 op r nb d) = op := by simp only [fields_cmd40]
@[simp] theorem cmdRsv_cmd40 : cmdRsv (cmd40 op r nb d) = r := by simp only [fields_cmd40]
@[simp] theorem cmdNb_cmd40 : cmdNb (cmd40 op r nb d) = nb := by simp only [fields_cmd40]
@[simp] theorem cmdData_cmd40 : cmdData (cmd40 op r nb d) = d := by simp only [fields_cmd40]

end fields

section lanes
variable (b0 b1 b2 b3 : Byte)

@[simp] theorem lane_zero_lanes : lane (lanes b0 b1 b2 b3) 0 = b0 := by simp only [lane_lanes]
@[simp] theorem lane_one_lanes : lane (lanes b0 b1 b2 b3) 1 = b1 := by simp only [lane_lanes]
@[simp] theorem lane_two_lanes : lane (lanes b0 b1 b2 b3) 2 = b2 := by simp only [lane_lanes]
@[simp] theorem lane_three_lanes : lane (lanes b0 b1 b2 b3) 3 = b3 := by simp only [lane_lanes]

end lanes

theorem decodeBeat_of_clean {w : CmdWord} {nb : Nat} {i : Instr} (h : cmdData w >>> (8 * nb) = 0#32) :
    decodeBeat w nb i = .legal i := if_pos h

theorem decodeBeat_eq_legal {w : CmdWord} {nb : Nat} {i j : Instr} :
    decodeBeat w nb j = .legal i ↔ j = i ∧ cmdData w >>> (8 * nb) = 0#32 := by
  unfold decodeBeat
  split <;> simp [*]

/-- Opcode 3 without the reserved bit is a WRITE word (R78). -/
theorem decode_cmd40_write (nb : BitVec 3) (d : Word) :
    decode (cmd40 3#4 0#1 nb d) = decodeWrite (cmd40 3#4 0#1 nb d) := by
  simp [decode, opReserved]

/-- A WRITE's fields read back as its count and its bytes, and the lanes above its count are zero. -/
theorem decode_encode (i : Instr) : decode (encode i) = .legal i := by
  cases i with
  | construct | reset | writeNb0 | digest | digestBe | info => rfl
  | writeNb1 b0 =>
    obtain ⟨hclean, -, -⟩ := lanes_short b0 0#8 0#8
    simp [encode, decode_cmd40_write, decodeWrite, decodeBeat_of_clean, hclean]
  | writeNb2 b0 b1 =>
    obtain ⟨-, hclean, -⟩ := lanes_short b0 b1 0#8
    simp [encode, decode_cmd40_write, decodeWrite, decodeBeat_of_clean, hclean]
  | writeNb3 b0 b1 b2 =>
    obtain ⟨-, -, hclean⟩ := lanes_short b0 b1 b2
    simp [encode, decode_cmd40_write, decodeWrite, decodeBeat_of_clean, hclean]
  | writeNb4 b0 b1 b2 b3 => simp [encode, decode_cmd40_write, decodeWrite]

/-! ## The one word of a command -/

/-- An opcode is reserved or one of the six that R78 assigns (R81). -/
theorem op_reserved_or_assigned (op : BitVec 4) :
    opReserved op = true ∨ op = 1#4 ∨ op = 2#4 ∨ op = 3#4 ∨ op = 4#4 ∨ op = 5#4 ∨ op = 6#4 := by
  revert op; decide

/-- A word that decodes to a command has no reserved bit, and is a WRITE word or its opcode without an operand (R80). -/
theorem decode_legal_cases {w : CmdWord} {i : Instr} (h : decode w = .legal i) :
    cmdRsv w = 0#1 ∧ (cmdOp w = 3#4 ∧ decodeWrite w = .legal i ∨
      encode i = cmd40 (cmdOp w) 0#1 0#3 0#32 ∧ w.extractLsb' 0 35 = 0#35) := by
  have bare {j : Instr} (hj : decodeBare w j = .legal i) (hop : encode j = cmd40 (cmdOp w) 0#1 0#3 0#32) :
      encode i = cmd40 (cmdOp w) 0#1 0#3 0#32 ∧ w.extractLsb' 0 35 = 0#35 := by
    obtain ⟨rfl, hoperand⟩ := decodeBare_eq_legal.1 hj
    exact ⟨hop, hoperand⟩
  unfold decode at h
  split_ifs at h with hres hrsv h1 h2 h3 h4 h5 <;> refine ⟨rsv_zero hrsv, ?_⟩
  · exact .inr (bare h (by rw [h1]; rfl))
  · exact .inr (bare h (by rw [h2]; rfl))
  · exact .inl ⟨h3, h⟩
  · exact .inr (bare h (by rw [h4]; rfl))
  · exact .inr (bare h (by rw [h5]; rfl))
  · have h6 : cmdOp w = 6#4 := by simpa [hres, h1, h2, h3, h4, h5] using op_reserved_or_assigned (cmdOp w)
    exact .inr (bare h (by rw [h6]; rfl))

/-- The lanes at and above the count are zero, so the bytes below it are the whole data field. -/
theorem encode_of_decodeWrite {w : CmdWord} {i : Instr} (hop : cmdOp w = 3#4) (hrsv : cmdRsv w = 0#1)
    (h : decodeWrite w = .legal i) : encode i = w := by
  have hw := cmd40_fields w
  rw [hop, hrsv, ← lanes_lane (cmdData w)] at hw
  unfold decodeWrite at h
  dsimp only at h
  split_ifs at h with h0 h1 h2 h3 h4
  · obtain ⟨rfl, hclean⟩ := decodeBeat_eq_legal.1 h
    have hlane (k : Nat) : lane (cmdData w) k = 0#8 := lane_of_clean _ 0 k hclean (Nat.zero_le k)
    rw [h0, hlane, hlane, hlane, hlane] at hw
    exact hw
  · obtain ⟨rfl, hclean⟩ := decodeBeat_eq_legal.1 h
    rw [h1, lane_of_clean _ 1 1 hclean (by decide), lane_of_clean _ 1 2 hclean (by decide),
      lane_of_clean _ 1 3 hclean (by decide)] at hw
    exact hw
  · obtain ⟨rfl, hclean⟩ := decodeBeat_eq_legal.1 h
    rw [h2, lane_of_clean _ 2 2 hclean (by decide), lane_of_clean _ 2 3 hclean (by decide)] at hw
    exact hw
  · obtain ⟨rfl, hclean⟩ := decodeBeat_eq_legal.1 h
    rw [h3, lane_of_clean _ 3 3 hclean (by decide)] at hw
    exact hw
  · cases h
    rw [h4] at hw
    exact hw

theorem encode_of_decode {w : CmdWord} {i : Instr} (h : decode w = .legal i) : encode i = w := by
  obtain ⟨hrsv, ⟨hop, hwrite⟩ | ⟨hencode, hoperand⟩⟩ := decode_legal_cases h
  · exact encode_of_decodeWrite hop hrsv hwrite
  · exact hencode.trans (eq_cmd40_of_bare (by simp [hrsv]) hoperand).symm

theorem decode_eq_legal {w : CmdWord} {i : Instr} : decode w = .legal i ↔ encode i = w :=
  ⟨encode_of_decode, fun h => h ▸ decode_encode i⟩

/-! ## The rows of the opcode table -/

theorem encode_fits_row (i : Instr) : i.row.fits (encode i) = true := by
  cases i with
  | construct => exact Laws.EncodeFitsRow.construct
  | reset => exact Laws.EncodeFitsRow.reset
  | writeNb0 => exact Laws.EncodeFitsRow.writeNb0
  | writeNb1 b0 => exact Laws.EncodeFitsRow.writeNb1 b0
  | writeNb2 b0 b1 => exact Laws.EncodeFitsRow.writeNb2 b0 b1
  | writeNb3 b0 b1 b2 => exact Laws.EncodeFitsRow.writeNb3 b0 b1 b2
  | writeNb4 b0 b1 b2 b3 => exact Laws.EncodeFitsRow.writeNb4 b0 b1 b2 b3
  | digest => exact Laws.EncodeFitsRow.digest
  | digestBe => exact Laws.EncodeFitsRow.digestBe
  | info => exact Laws.EncodeFitsRow.info

theorem row_mem_rows (i : Instr) : i.row ∈ rows := by
  cases i <;> simp [Instr.row, rows]

theorem rows_nodup : rows.Nodup := by decide

/-- A bit of the data field is a bit of a lane (R52). -/
theorem getLsbD_eq_lane (w : CmdWord) {k : Nat} (hk : k < 32) :
    w.getLsbD k = (lane (cmdData w) (k / 8)).getLsbD (k % 8) := by
  simp [lane, cmdData, Nat.div_add_mod, Nat.mod_lt, hk]

/-- A row whose mask leaves the lanes below `nb` free fixes a word by those lanes. -/
theorem eq_of_fits {r : Row} {nb : Nat} {w w' : CmdWord} (hnb : nb ≤ 4) (hmask : r.mask = BitVec.allOnes 40 <<< (8 * nb))
    (h : r.fits w = true) (h' : r.fits w' = true) (hlane : ∀ j < nb, lane (cmdData w) j = lane (cmdData w') j) :
    w = w' := by
  refine BitVec.eq_of_getLsbD_eq fun k hk => ?_
  by_cases hfree : k < 8 * nb
  · rw [getLsbD_eq_lane w (by omega), getLsbD_eq_lane w' (by omega), hlane (k / 8) (by omega)]
  · have hmasked : (w &&& r.mask).getLsbD k = (w' &&& r.mask).getLsbD k := by
      rw [beq_iff_eq.1 h, beq_iff_eq.1 h']
    have hset : r.mask.getLsbD k = true := by
      simp only [hmask, BitVec.getLsbD_shiftLeft, BitVec.getLsbD_allOnes]
      simp [hk, hfree, Nat.lt_of_le_of_lt (Nat.sub_le k _) hk]
    simpa only [BitVec.getLsbD_and, hset, Bool.and_true] using hmasked

/-- The mask of a command's row leaves free the lanes of its bytes and nothing else (R80). -/
theorem row_mask (i : Instr) : i.row.mask = BitVec.allOnes 40 <<< (8 * i.beat.length) := by
  cases i <;> (dsimp only [Instr.row, Instr.beat, List.length]; decide)

/-- A command's bytes are the lanes of its word, lane 0 first (R52). -/
theorem lane_encode (i : Instr) (j : Nat) (hj : j < i.beat.length) : lane (cmdData (encode i)) j = i.beat[j] := by
  cases i with
  | construct | reset | writeNb0 | digest | digestBe | info => exact absurd hj (Nat.not_lt_zero j)
  | writeNb1 | writeNb2 | writeNb3 | writeNb4 =>
    simp only [Instr.beat, List.length_cons, List.length_nil] at hj
    interval_cases j <;> simp [encode, Instr.beat]

/-- A command is read off a word that its row fits: the row says all of the word but its bytes. -/
theorem encode_of_row_fits {i : Instr} {w : CmdWord} (h : i.row.fits w = true)
    (hbeat : i.beat = (List.range i.beat.length).map (lane (cmdData w))) : encode i = w := by
  refine eq_of_fits (beat_length_le i) (row_mask i) (encode_fits_row i) h fun j hj => ?_
  rw [lane_encode i j hj, List.getElem_of_eq hbeat hj, List.getElem_map, List.getElem_range]

/-- Every row that fits a word is the row of a command with that word. -/
theorem exists_command_of_fits {r : Row} {w : CmdWord} (hr : r ∈ rows) (h : r.fits w = true) :
    ∃ i : Instr, i.row = r ∧ encode i = w := by
  fin_cases hr
  · exact ⟨.construct, rfl, encode_of_row_fits h rfl⟩
  · exact ⟨.reset, rfl, encode_of_row_fits h rfl⟩
  · exact ⟨.writeNb0, rfl, encode_of_row_fits h rfl⟩
  · exact ⟨.writeNb1 (lane (cmdData w) 0), rfl, encode_of_row_fits h rfl⟩
  · exact ⟨.writeNb2 (lane (cmdData w) 0) (lane (cmdData w) 1), rfl, encode_of_row_fits h rfl⟩
  · exact ⟨.writeNb3 (lane (cmdData w) 0) (lane (cmdData w) 1) (lane (cmdData w) 2), rfl, encode_of_row_fits h rfl⟩
  · exact ⟨.writeNb4 (lane (cmdData w) 0) (lane (cmdData w) 1) (lane (cmdData w) 2) (lane (cmdData w) 3), rfl,
      encode_of_row_fits h rfl⟩
  · exact ⟨.digest, rfl, encode_of_row_fits h rfl⟩
  · exact ⟨.digestBe, rfl, encode_of_row_fits h rfl⟩
  · exact ⟨.info, rfl, encode_of_row_fits h rfl⟩

/-- A row fits a word when the word decodes to a command of that row (R79). -/
theorem fits_iff_decode {r : Row} {w : CmdWord} (hr : r ∈ rows) :
    r.fits w = true ↔ ∃ i : Instr, decode w = .legal i ∧ i.row = r := by
  constructor
  · intro h
    obtain ⟨i, hrow, hencode⟩ := exists_command_of_fits hr h
    exact ⟨i, decode_eq_legal.2 hencode, hrow⟩
  · rintro ⟨i, hd, rfl⟩
    rw [← encode_of_decode hd]
    exact encode_fits_row i

/-- The rows that fit a legal word: its command's own. -/
theorem filter_fits_of_legal {w : CmdWord} {i : Instr} (h : decode w = .legal i) :
    rows.filter (·.fits w) = [i.row] := by
  have hfits : ∀ r ∈ rows, r.fits w = (r == i.row) := fun r hr => by
    rw [Bool.eq_iff_iff, fits_iff_decode hr, h, beq_iff_eq]
    simp [eq_comm]
  rw [List.filter_congr hfits, List.filter_beq, List.count_eq_one_of_mem rows_nodup (row_mem_rows i),
    List.replicate_one]

/-- No row fits an illegal word. -/
theorem filter_fits_of_illegal {w : CmdWord} {reason : IllegalReason} (h : decode w = .illegal reason) :
    rows.filter (·.fits w) = [] :=
  List.filter_eq_nil_iff.2 fun r hr hfits => by simp [fits_iff_decode hr, h] at hfits

theorem exists_legal_iff_one_row_fits (w : CmdWord) :
    (∃ i : Instr, decode w = .legal i) ↔ (rows.filter (·.fits w)).length = 1 := by
  cases h : decode w with
  | legal i => simp [filter_fits_of_legal h]
  | illegal reason => simp [filter_fits_of_illegal h]

theorem rows_fitting_le_one (w : CmdWord) : (rows.filter (·.fits w)).length ≤ 1 := by
  cases h : decode w with
  | legal i => simp [filter_fits_of_legal h]
  | illegal reason => simp [filter_fits_of_illegal h]

/-! ## The statements about command words (30_encoding.md) -/

/-- Settles O1: the decoder reads back the fields the encoder wrote. -/
theorem decodesEveryEncoding : Obligations.DecodesEveryEncoding := decode_encode

/-- Settles O2: the checks of the decoder leave no bit of a legal word open but the command's bytes. -/
theorem legalWordIsItsEncoding : Obligations.LegalWordIsItsEncoding := fun _ _ => encode_of_decode

/-- Settles O3: the rows that fit a word are the row of its command, or none. -/
theorem legalExactlyWhenOneRowFits : Obligations.LegalExactlyWhenOneRowFits := fun w =>
  ⟨exists_legal_iff_one_row_fits w, fun i hd => (fits_iff_decode (row_mem_rows i)).2 ⟨i, hd, rfl⟩,
    rows_fitting_le_one w⟩

/-- Settles O5: each of the legal words is its command's encoding, and lane 3 of the last one is not zero. -/
theorem specWordsDecode : Obligations.SpecWordsDecode :=
  ⟨decode_eq_legal.2 rfl, decode_eq_legal.2 rfl, decode_eq_legal.2 rfl, decode_eq_legal.2 rfl, decode_eq_legal.2 rfl,
    decode_eq_legal.2 rfl, decode_eq_legal.2 rfl, decode_eq_legal.2 rfl, decode_eq_legal.2 rfl, rfl⟩

end Sys2Proof.Machine

/-! # The assembler

SUPPORT. The word of a WRITE as a number, the commands of a list of beats, and the events of a line (30_encoding.md R86, R87). -/

namespace Sys2Proof.Machine

open Sys2Proof.Statements

/-! ## Beats and their WRITE commands -/

/-- A beat of at most four bytes has a WRITE command that carries it (R82, R86). -/
theorem writeOf_eq_some {beat : List Byte} (h : beat.length ≤ 4) :
    ∃ i : Instr, writeOf beat = some i ∧ i.isWrite = true ∧ i.beat = beat := by
  match beat, h with
  | [], _ | [_], _ | [_, _], _ | [_, _, _], _ | [_, _, _, _], _ => exact ⟨_, rfl, rfl, rfl⟩
  | _ :: _ :: _ :: _ :: _ :: _, h => exact absurd h (by simp only [List.length_cons]; omega)

/-- Beats of at most four bytes each have WRITE commands that carry them in order. -/
theorem mapM_writeOf_eq_some {beats : List (List Byte)} (h : ∀ beat ∈ beats, beat.length ≤ 4) :
    ∃ is : List Instr, beats.mapM writeOf = some is ∧ is.map Instr.beat = beats ∧ ∀ i ∈ is, i.isWrite = true := by
  induction beats with
  | nil => exact ⟨[], rfl, rfl, by simp⟩
  | cons beat beats ih =>
    obtain ⟨hbeat, hbeats⟩ := List.forall_mem_cons.1 h
    obtain ⟨i, hi, hwrite, hcarries⟩ := writeOf_eq_some hbeat
    obtain ⟨is, his, hcarry, hwrites⟩ := ih hbeats
    exact ⟨i :: is, by simp [hi, his], by rw [List.map_cons, hcarries, hcarry], List.forall_mem_cons.2 ⟨hwrite, hwrites⟩⟩

theorem fullBeats_flatten (bytes : List Byte) : (fullBeats bytes).flatten = bytes := by
  induction bytes using fullBeats.induct with
  | case1 b0 b1 b2 b3 rest ih => simp [fullBeats, ih]
  | case2 | case3 | case4 | case5 => rfl

theorem map_length_fullBeats (bytes : List Byte) :
    (fullBeats bytes).map List.length =
      List.replicate (bytes.length / 4) 4 ++ if bytes.length % 4 = 0 then [] else [bytes.length % 4] := by
  induction bytes using fullBeats.induct with
  | case1 b0 b1 b2 b3 rest ih =>
    have hlen : (b0 :: b1 :: b2 :: b3 :: rest).length = rest.length + 4 := rfl
    rw [fullBeats, List.map_cons, ih, hlen, Nat.add_mod_right, Nat.add_div_right _ (by decide), List.replicate_succ]
    rfl
  | case2 | case3 | case4 | case5 => simp [fullBeats]

theorem length_le_of_mem_fullBeats (bytes : List Byte) : ∀ beat ∈ fullBeats bytes, beat.length ≤ 4 := by
  intro beat hmem
  have hlen : beat.length ∈ (fullBeats bytes).map List.length := List.mem_map_of_mem hmem
  rw [map_length_fullBeats, List.mem_append, List.mem_replicate] at hlen
  obtain ⟨-, hfour⟩ | hrest := hlen
  · exact hfour.le
  · split at hrest <;> simp at hrest
    omega

theorem writeStrBeats_of_ne_nil {bytes : List Byte} (h : bytes ≠ []) : writeStrBeats bytes = fullBeats bytes := if_neg h

/-- Settles O7: the full beats are four bytes each, what is left is one more, and each has its WRITE. -/
theorem writeStrExpandsIntoBeats : Obligations.WriteStrExpandsIntoBeats := by
  intro bytes
  by_cases h : bytes = []
  · subst h
    exact ⟨rfl, fun _ => rfl, fun hne => absurd rfl hne, [.writeNb0], rfl, rfl, by simp [Instr.isWrite]⟩
  · have hbeats := writeStrBeats_of_ne_nil h
    rw [AsmCmd.instrs, hbeats]
    exact ⟨fullBeats_flatten bytes, fun hnil => absurd hnil h, fun _ => map_length_fullBeats bytes,
      mapM_writeOf_eq_some (length_le_of_mem_fullBeats bytes)⟩

/-! ## The word of a WRITE as a number -/

theorem toNat_append_eq_add {m n : Nat} (x : BitVec m) (y : BitVec n) : (x ++ y).toNat = x.toNat * 2 ^ n + y.toNat := by
  rw [BitVec.toNat_append, ← Nat.shiftLeft_add_eq_or_of_lt y.isLt, Nat.shiftLeft_eq]

theorem toNat_cmd40 (op : BitVec 4) (r : BitVec 1) (nb : BitVec 3) (d : Word) :
    (cmd40 op r nb d).toNat = op.toNat * 2 ^ 36 + r.toNat * 2 ^ 35 + nb.toNat * 2 ^ 32 + d.toNat := by
  simp only [cmd40, toNat_append_eq_add]
  ring

/-- A data field is its lanes as a little-endian number (R52). -/
theorem toNat_lanes (b0 b1 b2 b3 : Byte) : (lanes b0 b1 b2 b3).toNat = leNat [b0, b1, b2, b3] := by
  simp only [lanes, leNat, toNat_append_eq_add, List.foldr]
  ring

theorem toNat_encode_of_isWrite {i : Instr} (h : i.isWrite = true) :
    (encode i).toNat = 3 * 2 ^ 36 + i.beat.length * 2 ^ 32 + leNat i.beat := by
  cases i with
  | construct | reset | digest | digestBe | info => cases h
  | writeNb0 => rfl
  | writeNb1 | writeNb2 | writeNb3 | writeNb4 => simp [encode, toNat_cmd40, toNat_lanes, leNat, Instr.beat]

/-! ## The events of a line -/

theorem answers_encode (i : Instr) : answers (encode i) = i.responds := by
  rw [answers, decode_encode]

/-- A line of one command is its word, and the response taken if it answers (R86, R249; log entry 2). -/
theorem AsmCmd.events_of_instr {a : AsmCmd} {i : Instr} (h : a.instrs = some [i]) (idle : Seed) :
    a.events idle =
      some (.command (encode i) (a.seedLevel idle) :: if i.responds then [.takeResponse] else []) := by
  simp [AsmCmd.events, AsmCmd.words, h, wordEvents, answers_encode]

theorem AsmCmd.instrs_write {bytes : List Byte} {i : Instr} (h : bytes.length ≤ 4) (hi : writeOf bytes = some i) :
    (AsmCmd.write bytes).instrs = some [i] := by
  simp [AsmCmd.instrs, Beat.wf, Config.beatBytes, h, hi]

theorem not_responds_of_isWrite {i : Instr} (h : i.isWrite = true) : i.responds = false := by
  cases i with
  | writeNb0 | writeNb1 | writeNb2 | writeNb3 | writeNb4 => rfl
  | construct | reset | digest | digestBe | info => cases h

/-- Settles O6: each line is one command, whose word is the encoding. -/
theorem assemblerEncodesEveryLine : Obligations.AssemblerEncodesEveryLine := by
  intro idle
  refine ⟨fun v => AsmCmd.events_of_instr (i := .construct) rfl idle, ?_,
    AsmCmd.events_of_instr (i := .reset) rfl idle,
    AsmCmd.events_of_instr (i := .digest) rfl idle,
    AsmCmd.events_of_instr (i := .digestBe) rfl idle,
    AsmCmd.events_of_instr (i := .info) rfl idle,
    AsmCmd.events_of_instr (i := .writeNb4 0x68 0x65 0x6C 0x6C) rfl idle⟩
  intro bytes hlen
  obtain ⟨i, hi, hwrite, hbeat⟩ := writeOf_eq_some hlen
  refine ⟨encode i, ?_, ?_⟩
  · rw [AsmCmd.events_of_instr (AsmCmd.instrs_write hlen hi), not_responds_of_isWrite hwrite]
    rfl
  · rw [toNat_encode_of_isWrite hwrite, hbeat]

end Sys2Proof.Machine

/-! # seed_i and responses under a command

SUPPORT. What a command does with the level on seed_i, with the waiting response and with the response list (30_encoding.md R71, R74,
R75). -/

namespace Sys2Proof.Machine

/-! ## The level on seed_i -/

/-- The state with another level on seed_i. -/
def State.withSeedI (v : Seed) (s : State) : State := { s with seedI := v }

@[simp] theorem State.withSeedI_pcnt (v : Seed) (s : State) : (s.withSeedI v).pcnt = s.pcnt := rfl

theorem State.writeChunk_withSeedI (m : Mixer) (chunk : List Byte) (v : Seed) (s : State) :
    (s.withSeedI v).writeChunk m chunk = (s.writeChunk m chunk).withSeedI v := by
  by_cases haligned : s.pcnt = 0
  · simp only [State.writeChunk, State.withSeedI_pcnt, haligned, ↓reduceIte]
    rfl
  · by_cases hshort : chunk.length < 4 - s.pcnt.toNat <;>
    · simp only [State.writeChunk, State.withSeedI_pcnt, haligned, hshort, ↓reduceIte]
      rfl

theorem after_withSeedI {i : Instr} (h : i ≠ .construct) (v : Seed) (s : State) :
    after i (s.withSeedI v) = (after i s).withSeedI v := by
  cases i with
  | construct => exact absurd rfl h
  | reset | digest | digestBe | info => rfl
  | writeNb0 | writeNb1 | writeNb2 | writeNb3 | writeNb4 => exact State.writeChunk_withSeedI ..

/-! ## Responses -/

theorem after_of_not_reader {i : Instr} (h : ¬ (i = .digest ∨ i = .digestBe ∨ i = .info)) (s : State) :
    (after i s).rsp = s.rsp ∧ (after i s).responses = s.responses := by
  cases i with
  | digest | digestBe | info => simp at h
  | construct | reset => exact ⟨rfl, rfl⟩
  | writeNb0 | writeNb1 | writeNb2 | writeNb3 | writeNb4 => exact ⟨(write_done rfl s).rsp, (write_done rfl s).responses⟩

/-- A command presented while the block is not ready for it changes nothing (R71; log entry 9). -/
theorem step_of_not_ready {s : State} {w : CmdWord} {v : Seed} {rest : List HostEvent} (he : s.events = .command w v :: rest)
    (hfault : s.fault = none) (hready : s.cmdReady = false) : step s = .next s := by
  simp [step, portStep, he, State.unlessMarked_of_unmarked hfault, hready]

theorem step_takeResponse {s : State} {rest : List HostEvent} (he : s.events = .takeResponse :: rest)
    (hfault : s.fault = none) : step s = .next (s.takeResponse rest) := by
  simp [step, portStep, he, State.unlessMarked_of_unmarked hfault]

/-! ## The statements about the ports (30_encoding.md) -/

/-- Settles O43: no meaning but CONSTRUCT's reads the level. -/
theorem seedPortReadOnlyByConstruct : Obligations.SeedPortReadOnlyByConstruct := by
  intro i s v hi
  refine ⟨after i s, exec_after i s, ?_⟩
  exact (exec_after i (s.withSeedI v)).trans (congrArg Host.Outcome.next (after_withSeedI hi v s))

/-- Settles O13: a waiting response makes cmd_ready_o 0, and taking it makes it 1. -/
theorem waitingResponseHoldsCommandsOff : Obligations.WaitingResponseHoldsCommandsOff := by
  intro s d rest hrsp hfault
  refine ⟨fun w v he => step_of_not_ready he hfault (by simp [State.cmdReady, hrsp]), fun hrstN he => ?_⟩
  exact ⟨s.takeResponse rest, step_takeResponse he hfault, rfl, (State.cmdReady_iff _).2 ⟨hrstN, rfl⟩,
    by simp [State.rspValid]⟩

/-- Settles O14: a reader gives its answer, and no other command touches a response. -/
theorem onlyReadersRespond : Obligations.OnlyReadersRespond := by
  intro i s
  refine ⟨after i s, exec_after i s, ?_⟩
  split
  next hreader =>
    obtain ⟨d, -, hafter⟩ := after_reader hreader s
    exact ⟨d, by rw [hafter, State.respond_rsp], by rw [hafter, State.respond_responses]⟩
  next hother => exact after_of_not_reader hother s

end Sys2Proof.Machine

/-! # WRITE

SUPPORT. The word and short paths of the write algorithm in closed form, the pending bytes by their number, and lists of beats
(40_write.md R102 to R115). -/

namespace Sys2Proof.Machine

open Sys2Proof.Statements

/-! ## Operations that have nothing to do -/

@[simp] theorem State.feedWords_nil (m : Mixer) (s : State) : s.feedWords m [] = s := by
  simp [State.feedWords, State.setAcc, State.acc]

@[simp] theorem storedAt_nil (p k : Nat) (old : Byte) : storedAt [] p k old = old := by
  simp [storedAt]

@[simp] theorem State.appendPending_nil (s : State) : s.appendPending [] = s := by
  simp [State.appendPending]

@[simp] theorem State.addLen_zero (s : State) : s.addLen 0 = s := by
  simp [State.addLen]

/-! ## The two paths of a write -/

/-- A chunk that completes no word is stored and counted, and that is all (R102 steps 1 and 3). -/
theorem State.writeChunk_of_short (m : Mixer) {chunk : List Byte} {s : State} (h : s.pcnt.toNat + chunk.length < 4) :
    s.writeChunk m chunk = (s.appendPending chunk).addLen chunk.length := by
  unfold State.writeChunk
  dsimp only
  split_ifs with haligned hshort
  · have hlen : chunk.length < 4 := by omega
    rw [State.writeAligned, tailOf_short hlen, wordsOf_take_wholeLen, wordsOf_short hlen, State.feedWords_nil]
  · rfl
  · omega

/-- The empty chunk is short in every state, and to store no byte and count none is to do nothing (R115). -/
theorem State.writeChunk_nil (m : Mixer) (s : State) : s.writeChunk m [] = s := by
  rw [State.writeChunk_of_short m (by simpa using pcnt_toNat_lt s), State.appendPending_nil, List.length_nil,
    State.addLen_zero]

/-- One whole word and nothing more: it goes to UPD and no byte is stored (R111). -/
theorem State.writeAligned_word (m : Mixer) (b0 b1 b2 b3 : Byte) (s : State) :
    s.writeAligned m [b0, b1, b2, b3] = s.feedWords m [le32 b0 b1 b2 b3] := by
  simp [State.writeAligned, wholeLen, wordsOf, tailOf]

theorem State.writeChunk_of_aligned (m : Mixer) (chunk : List Byte) {s : State} (h : s.pcnt = 0) :
    s.writeChunk m chunk = (s.writeAligned m chunk).addLen chunk.length := if_pos h

theorem storedAt_outside {bytes : List Byte} {p k : Nat} (h : k < p ∨ p + bytes.length ≤ k) (old : Byte) :
    storedAt bytes p k old = old := by
  unfold storedAt
  split_ifs with hpk
  · rw [List.getElem?_eq_none (by omega), Option.getD_none]
  · rfl

theorem pbufAt_appendPending (bytes : List Byte) (s : State) {k : Nat} (hk : k < 3) :
    pbufAt (s.appendPending bytes) k = storedAt bytes s.pcnt.toNat k (pbufAt s k) := by
  interval_cases k <;> rfl

/-- Only `pbuf[pcnt..t-1]` change on the short path (R103). -/
theorem pbufAt_writeChunk_of_short (m : Mixer) {chunk : List Byte} {s : State} (h : s.pcnt.toNat + chunk.length < 4)
    {k : Nat} (hk : k < 3) (hout : k < s.pcnt.toNat ∨ s.pcnt.toNat + chunk.length ≤ k) :
    pbufAt (s.writeChunk m chunk) k = pbufAt s k := by
  calc pbufAt (s.writeChunk m chunk) k = pbufAt (s.appendPending chunk) k := by
        rw [State.writeChunk_of_short m h]; interval_cases k <;> rfl
    _ = pbufAt s k := by rw [pbufAt_appendPending chunk s hk, storedAt_outside hout]

/-- One word and fewer than four bytes more: what a beat on a partial buffer makes at most (R103). -/
theorem one_word_of_length {bs : List Byte} (h4 : 4 ≤ bs.length) (h8 : bs.length < 8) :
    ∃ b0 b1 b2 b3 : Byte, bs.take 4 = [b0, b1, b2, b3] ∧ wordsOf bs = [le32 b0 b1 b2 b3] ∧ tailOf bs = bs.drop 4 := by
  match bs, h4 with
  | b0 :: b1 :: b2 :: b3 :: rest, _ =>
    have hrest : rest.length < 4 := by simp only [List.length_cons] at h8; omega
    refine ⟨b0, b1, b2, b3, rfl, by rw [wordsOf, wordsOf_short hrest], ?_⟩
    exact (tailOf_append (xs := [b0, b1, b2, b3]) rest (by simp)).trans (tailOf_short hrest)

section paths
variable {m : Mixer} {chunk : List Byte} {s t : State}

/-- The word path of the aligner form (R103). -/
theorem WriteDone.of_word (h : WriteDone m chunk s t) (hlen : chunk.length ≤ 4) (h4 : 4 ≤ s.pcnt.toNat + chunk.length) :
    ∃ b0 b1 b2 b3 : Byte, (s.pending ++ chunk).take 4 = [b0, b1, b2, b3] ∧
      t.acc = m.upd s.acc (le32 b0 b1 b2 b3) ∧ t.wordTrace = s.wordTrace ++ [le32 b0 b1 b2 b3] ∧
      t.pending = (s.pending ++ chunk).drop 4 := by
  have hpcnt := pcnt_toNat_lt s
  have hall : (s.pending ++ chunk).length = s.pcnt.toNat + chunk.length := by simp
  obtain ⟨b0, b1, b2, b3, htake, hword, htail⟩ :=
    one_word_of_length (bs := s.pending ++ chunk) (by omega) (by omega)
  exact ⟨b0, b1, b2, b3, htake, by rw [h.acc, hword]; rfl, by rw [h.wordTrace, hword], by rw [h.pending, htail]⟩

/-- The short path of the aligner form (R103). -/
theorem WriteDone.of_short (h : WriteDone m chunk s t) (hshort : s.pcnt.toNat + chunk.length < 4) :
    t.acc = s.acc ∧ t.wordTrace = s.wordTrace ∧ t.pending = s.pending ++ chunk := by
  have hall : (s.pending ++ chunk).length < 4 := by simpa using hshort
  exact ⟨by rw [h.acc, wordsOf_short hall]; rfl, by rw [h.wordTrace, wordsOf_short hall, List.append_nil],
    by rw [h.pending, tailOf_short hall]⟩

theorem WriteDone.sameOutside (h : WriteDone m chunk s t) : sameOutside s t :=
  ⟨h.fault, h.responses, h.rstN, h.rsp, h.seedI, h.events, h.cmdIndex⟩

/-- The count of pending bytes goes round mod 4 (R105). -/
theorem WriteDone.pcnt_toNat (h : WriteDone m chunk s t) : t.pcnt.toNat = (s.pcnt.toNat + chunk.length) % 4 := by
  rw [← t.pending_length, h.pending, tailOf_length, List.length_append, s.pending_length]

theorem WriteDone.tlen_toNat (h : WriteDone m chunk s t) :
    t.tlen.toNat = (s.tlen.toNat + chunk.length) % 2 ^ 64 := by
  rw [h.tlen, BitVec.toNat_add, BitVec.toNat_ofNat, Nat.add_mod_mod]

/-- The words a write adds to the trace (R105). -/
theorem WriteDone.words_length (h : WriteDone m chunk s t) :
    ∃ ws : List Word, t.wordTrace = s.wordTrace ++ ws ∧ ws.length = (s.pcnt.toNat + chunk.length) / 4 :=
  ⟨_, h.wordTrace, by rw [wordsOf_length, List.length_append, s.pending_length]⟩

end paths

/-! ## The bytes by their number -/

theorem State.pending_getElem? {s : State} {k : Nat} (h : k < s.pcnt.toNat) : s.pending[k]? = some (pbufAt s k) := by
  have hk : k < 3 := Nat.lt_of_lt_of_le h (Nat.le_of_lt_succ (pcnt_toNat_lt s))
  rw [State.pending, List.getElem?_take_of_lt h]
  interval_cases k <;> rfl

/-- The bytes a WRITE takes together: those that were pending, and then the lanes of its data field (R104). -/
theorem pending_append_beat_getElem? (i : Instr) (s : State) {k : Nat} (hk : k < s.pcnt.toNat + i.beat.length) :
    (s.pending ++ i.beat)[k]? =
      some (if k < s.pcnt.toNat then pbufAt s k else lane (cmdData (encode i)) (k - s.pcnt.toNat)) := by
  split_ifs with hp
  · rw [List.getElem?_append_left (by simpa using hp), State.pending_getElem? hp]
  · have hj : k - s.pcnt.toNat < i.beat.length := by omega
    rw [List.getElem?_append_right (by simpa using hp), s.pending_length, List.getElem?_eq_getElem hj, lane_encode i _ hj]

theorem getElem?_eq_lane_le32 (b0 b1 b2 b3 : Byte) {k : Nat} (hk : k < 4) :
    [b0, b1, b2, b3][k]? = some (lane (le32 b0 b1 b2 b3) k) := by
  rw [le32_eq]
  interval_cases k <;> simp

/-- The alignment mux, where a word is completed (R104). -/
theorem mux_of_word {i : Instr} (hi : i.isWrite = true) {s : State} (h4 : 4 ≤ s.pcnt.toNat + i.beat.length) :
    ∃ w : Word, (after i s).wordTrace = s.wordTrace ++ [w] ∧ (after i s).acc = Config.mixer.upd s.acc w ∧
      (∀ k < 4, lane w k =
        if k < s.pcnt.toNat then pbufAt s k else lane (cmdData (encode i)) (k - s.pcnt.toNat)) ∧
      (∀ j < s.pcnt.toNat + i.beat.length - 4,
        pbufAt (after i s) j = lane (cmdData (encode i)) (4 - s.pcnt.toNat + j)) ∧
      (after i s).pcnt.toNat = s.pcnt.toNat + i.beat.length - 4 := by
  have hpcnt := pcnt_toNat_lt s
  obtain ⟨b0, b1, b2, b3, htake, hacc, htrace, hpending⟩ := (write_done hi s).of_word (beat_length_le i) h4
  have hcount : (after i s).pcnt.toNat = s.pcnt.toNat + i.beat.length - 4 := by
    rw [← State.pending_length, hpending, List.length_drop, List.length_append, s.pending_length]
  refine ⟨le32 b0 b1 b2 b3, htrace, hacc, fun k hk => Option.some.inj ?_, fun j hj => Option.some.inj ?_, hcount⟩
  · rw [← getElem?_eq_lane_le32 b0 b1 b2 b3 hk, ← htake, List.getElem?_take_of_lt hk,
      pending_append_beat_getElem? i s (by omega)]
  · rw [← State.pending_getElem? (hcount ▸ hj), hpending, List.getElem?_drop,
      pending_append_beat_getElem? i s (by omega), if_neg (by omega), Nat.sub_add_comm hpcnt.le]

/-- The alignment mux, where no word is completed (R104). -/
theorem mux_of_short {i : Instr} (hi : i.isWrite = true) {s : State} (hshort : s.pcnt.toNat + i.beat.length < 4) :
    (after i s).wordTrace = s.wordTrace ∧ (after i s).acc = s.acc ∧
      (∀ j < s.pcnt.toNat, pbufAt (after i s) j = pbufAt s j) ∧
      (∀ j < i.beat.length, pbufAt (after i s) (s.pcnt.toNat + j) = lane (cmdData (encode i)) j) ∧
      (after i s).pcnt.toNat = s.pcnt.toNat + i.beat.length := by
  obtain ⟨hacc, htrace, hpending⟩ := (write_done hi s).of_short hshort
  have hcount : (after i s).pcnt.toNat = s.pcnt.toNat + i.beat.length := by
    rw [← State.pending_length, hpending, List.length_append, s.pending_length]
  have hbyte {k : Nat} (hk : k < s.pcnt.toNat + i.beat.length) : pbufAt (after i s) k =
      if k < s.pcnt.toNat then pbufAt s k else lane (cmdData (encode i)) (k - s.pcnt.toNat) := by
    apply Option.some.inj
    rw [← State.pending_getElem? (hcount ▸ hk), hpending, pending_append_beat_getElem? i s hk]
  refine ⟨htrace, hacc, fun j hj => ?_, fun j hj => ?_, hcount⟩
  · rw [hbyte (by omega), if_pos hj]
  · rw [hbyte (by omega), if_neg (by omega), Nat.add_sub_cancel_left]

/-! ## Lists of beats -/

/-- Beats one after another write their bytes as one chunk (R114). -/
theorem WriteDone.of_beats {is : List Instr} (h : ∀ i ∈ is, i.isWrite = true) (s : State) :
    WriteDone Config.mixer (is.map Instr.beat).flatten s (is.foldl (fun s i => after i s) s) := by
  induction is generalizing s with
  | nil => exact WriteDone.refl _ s
  | cons i is ih =>
    obtain ⟨hi, his⟩ := List.forall_mem_cons.1 h
    exact (write_done hi s).trans (ih his (after i s))

theorem execAll_beats {is : List Instr} {chunk : List Byte} (h : beatsOf is chunk) (s : State) :
    ∃ t : State, execAll is s = .next t ∧ WriteDone Config.mixer chunk s t := by
  obtain ⟨hwrite, rfl⟩ := h
  exact ⟨_, execAll_foldl is s, WriteDone.of_beats hwrite s⟩

/-- Beats after an initialisation leave the closed form of the stream (R113). -/
theorem WriteDone.registers_of_init {m : Mixer} {v : Seed} {stream : List Byte} {s t : State}
    (h : WriteDone m stream s t) (hs : s.registers = closedForm m v []) : t.registers = closedForm m v stream := by
  have hreflects : t.Reflects m stream := h.reflects (State.reflects_of_registers hs)
  have hseed : s.seed = v := congrArg Registers.seed hs
  rw [hreflects, h.seed, hseed]

theorem execAll_cons (i : Instr) (is : List Instr) (s : State) : execAll (i :: is) s = execAll is (after i s) := by
  rw [execAll, exec_after]

/-- WRITESTR's beats carry its bytes in order (R87). -/
theorem beatsOf_writeStr (chunk : List Byte) :
    ∃ is : List Instr, (AsmCmd.writeStr chunk).instrs = some is ∧ beatsOf is chunk := by
  obtain ⟨hflatten, -, -, is, his, hbeats, hwrite⟩ := writeStrExpandsIntoBeats chunk
  exact ⟨is, his, hwrite, by rw [hbeats, hflatten]⟩

/-! ## Steps that end in no command -/

theorem step_of_ready_of_illegal {s : State} {w : CmdWord} {v : Seed} {rest : List HostEvent} {r : IllegalReason}
    (h : ready s w v rest) (hd : decode w = .illegal r) : step s = .next ((s.accept v rest).raiseIllegal r w) := by
  rw [step_of_ready h, runWord, hd]

theorem step_rstRise {s : State} {v : Seed} {rest : List HostEvent} (he : s.events = .rstRise v :: rest) :
    step s = .next (s.releaseReset Config.mixer v rest) := by
  simp [step, portStep, he]

/-- The release of rst_ni leaves the closed form of the empty stream (R240). -/
theorem State.registers_release {s : State} (hlow : s.rstN = false) (v : Seed) (rest : List HostEvent) :
    (s.releaseReset Config.mixer v rest).registers = closedForm Config.mixer v [] := by
  simp [State.registers_releaseReset, hlow]

/-! ## The statements about WRITE (40_write.md) -/

/-- Settles O19: the word path when the pending bytes and the beat are four or more, else the short path. -/
theorem writeGivesAlignerForm : Obligations.WriteGivesAlignerForm := by
  intro i s hi
  have hdone := write_done hi s
  refine ⟨after i s, exec_after i s, hdone.sameOutside, hdone.seed, hdone.tlen, (State.pending_length _).symm, ?_⟩
  split
  next hword => exact hdone.of_word (beat_length_le i) hword
  next hshort =>
    have hlt : s.pcnt.toNat + i.beat.length < 4 := Nat.lt_of_not_le hshort
    obtain ⟨hacc, htrace, hpending⟩ := hdone.of_short hlt
    refine ⟨hacc, htrace, hpending, fun k hk hout => ?_⟩
    rw [after_write hi]
    exact pbufAt_writeChunk_of_short _ hlt hk hout

/-- Settles O20: each byte is read off the pending bytes followed by the lanes of the data field. -/
theorem alignmentMuxPlacesEveryByte : Obligations.AlignmentMuxPlacesEveryByte :=
  fun i s hi => ⟨after i s, exec_after i s, mux_of_word hi, mux_of_short hi⟩

/-- Settles O21: a WRITE adds as many words as four goes into the bytes, which is one or none. -/
theorem pendingStateMachine : Obligations.PendingStateMachine := by
  refine ⟨fun i s => ⟨after i s, exec_after i s, fun hi => ?_, ?_, ?_⟩, ?_, ?_⟩
  · have hdone := write_done hi s
    obtain ⟨ws, htrace, hcount⟩ := hdone.words_length
    have hpcnt := pcnt_toNat_lt s
    have hbeat := beat_length_le i
    refine ⟨hdone.pcnt_toNat, ?_, ?_⟩
    · simp only [htrace, List.append_cancel_left_eq, ← List.length_eq_one_iff, hcount]
      omega
    · rw [htrace, List.append_right_eq_self, ← List.length_eq_zero_iff, hcount]
      omega
  · rintro (rfl | rfl) <;> rfl
  · intro hreader
    obtain ⟨d, -, hafter⟩ := after_reader hreader s
    rw [hafter, State.respond_pcnt]
  · exact fun s w v rest r hready hd => ⟨_, step_of_ready_of_illegal hready hd, rfl⟩
  · exact fun s v rest hlow he => ⟨_, step_rstRise he, congrArg Registers.pcnt (State.registers_release hlow v rest)⟩

/-- Settles O22: on every path the count is added mod 2^64. -/
theorem writeCountsEveryByte : Obligations.WriteCountsEveryByte := by
  intro i s hi
  have htlen := (write_done hi s).tlen_toNat
  refine ⟨after i s, exec_after i s, htlen, fun hmax hone => BitVec.eq_of_toNat_eq ?_⟩
  rw [htlen, hmax, hone]
  rfl

/-- Settles O23: a write of no byte is no change, and the empty chunk is one empty beat. -/
theorem emptyWriteChangesNothing : Obligations.EmptyWriteChangesNothing :=
  ⟨fun s => (exec_after .writeNb0 s).trans (congrArg Host.Outcome.next (State.writeChunk_nil Config.mixer s)), rfl⟩

/-- Settles O24: the beat is one whole word, so it goes to UPD as it is and pbuf is not written. -/
theorem fullAlignedBeatPassesThrough : Obligations.FullAlignedBeatPassesThrough := by
  intro s b0 b1 b2 b3 haligned
  have hdata : cmdData (encode (.writeNb4 b0 b1 b2 b3)) = le32 b0 b1 b2 b3 := by
    rw [encode, cmdData_cmd40, le32_eq]
  rw [hdata, exec_after, after_write rfl, Instr.beat, State.writeChunk_of_aligned _ _ haligned, State.writeAligned_word]
  rfl

/-- Settles O29: a WRITE takes the stream forward, and beats after an initialisation start from the empty one. -/
theorem closedFormAfterBeats : Obligations.ClosedFormAfterBeats := by
  refine ⟨fun i s stream hi hs => ⟨after i s, exec_after i s, (write_done hi s).reflects hs⟩, fun is stream hbeats => ?_⟩
  refine ⟨fun s => ?_, fun s => ?_, fun s v rest hlow he => ?_⟩
  · obtain ⟨t, hexec, hdone⟩ := execAll_beats hbeats (after .reset s)
    exact ⟨t, (execAll_cons _ _ _).trans hexec, hdone.registers_of_init (s.registers_reinit Config.mixer)⟩
  · obtain ⟨t, hexec, hdone⟩ := execAll_beats hbeats (after .construct s)
    exact ⟨t, (execAll_cons _ _ _).trans hexec, hdone.registers_of_init (s.registers_construct Config.mixer s.seedI)⟩
  · obtain ⟨t, hexec, hdone⟩ := execAll_beats hbeats (s.releaseReset Config.mixer v rest)
    exact ⟨_, t, step_rstRise he, hexec, hdone.registers_of_init (State.registers_release hlow v rest)⟩

/-- Settles O30: the beats and the whole chunk do one and the same write. -/
theorem everySplitOfAChunkAgrees : Obligations.EverySplitOfAChunkAgrees := by
  refine ⟨fun is chunk s hbeats => ?_, beatsOf_writeStr⟩
  obtain ⟨t, hexec, hdone⟩ := execAll_beats hbeats s
  exact ⟨t, hexec, hdone.observe.trans (State.writeChunk_done Config.mixer chunk s).observe.symm⟩

/-- Settles O25: the pending byte and the beat are `hello`, of which four make the word and one stays. -/
theorem writeWorkedExample : Obligations.WriteWorkedExample := by
  intro s hpcnt hbyte htlen
  have hdone := write_done (i := .writeNb4 0x65#8 0x6C#8 0x6C#8 0x6F#8) rfl s
  have hstream : s.pending ++ [0x65#8, 0x6C#8, 0x6C#8, 0x6F#8] = [0x68#8, 0x65#8, 0x6C#8, 0x6C#8, 0x6F#8] := by
    simp [State.pending, hpcnt, hbyte]
  refine ⟨decode_eq_legal.2 rfl, _, exec_after _ s, ?_, ?_, ?_, ?_, ?_⟩
  · rw [hdone.wordTrace, Instr.beat, hstream]; rfl
  · rw [hdone.acc, Instr.beat, hstream]; rfl
  · have hcount : (after (.writeNb4 0x65#8 0x6C#8 0x6C#8 0x6F#8) s).pcnt.toNat = 1 := by
      rw [hdone.pcnt_toNat, hpcnt]; rfl
    have hfirst := State.pending_getElem? (k := 0) (hcount ▸ Nat.one_pos)
    rw [hdone.pending, Instr.beat, hstream] at hfirst
    exact (Option.some.inj hfirst).symm
  · rw [hdone.pcnt, hpcnt]; rfl
  · rw [hdone.tlen, htlen]; rfl

end Sys2Proof.Machine

/-! # DIGEST, DIGEST_BE and INFO

SUPPORT. Finalization at the mixer's ports and of a stream, the bytes of a digest, and the registers under readers (41_digest.md R141
to R149). -/

namespace Sys2Proof.Machine

open Sys2Proof.Statements

/-! ## Finalization -/

/-- At the ports the accumulator that PFIN answers goes to AVAL as it is (R35, R76). -/
theorem Mixer.finalize_eq_ports (m : Mixer) (a : Acc) (tail : List Byte) (len : Len) :
    m.finalize a tail len = m.avDigestI (m.pfAccI a.pack (tailLanes tail) (BitVec.ofNat 2 tail.length) len) len := by
  rw [Mixer.finalize, Mixer.aval, Mixer.pfin, pack_unpack]

/-- Finalization reads only the registers a stream decides, so their closed form fixes it (R149). -/
theorem State.finalize_of_registers {m : Mixer} {v : Seed} {stream : List Byte} {s : State}
    (h : s.registers = closedForm m v stream) : s.finalize m = m.digestOf v stream := by
  have hacc : s.acc = (wordsOf stream).foldl m.upd (m.init v) := congrArg Registers.acc h
  have hpending : s.pending = tailOf stream := congrArg Registers.pending h
  have htlen : s.tlen = BitVec.ofNat 64 stream.length := congrArg Registers.tlen h
  rw [State.finalize, hacc, hpending, htlen, Mixer.digestOf]

/-- Beats and a DIGEST in a state that holds the empty stream answer the closed form (R149). -/
theorem execAll_digest_of_init {is : List Instr} {v : Seed} {stream : List Byte} {s : State} (hbeats : beatsOf is stream)
    (hs : s.registers = closedForm Config.mixer v []) :
    ∃ t : State, execAll (is ++ [.digest]) s = .next t ∧ t.rsp = some (Config.mixer.digestOf v stream) := by
  obtain ⟨hwrite, rfl⟩ := hbeats
  have hreg := (WriteDone.of_beats hwrite s).registers_of_init hs
  refine ⟨_, execAll_foldl _ s, ?_⟩
  rw [List.foldl_append]
  exact congrArg some (State.finalize_of_registers hreg)

/-! ## The tail at the mixer's port -/

theorem tailLanes_lane (tail : List Byte) {j : Nat} (hj : j < 3) :
    (tailLanes tail).extractLsb' (8 * j) 8 = tail[j]?.getD 0#8 := by
  apply BitVec.eq_of_getLsbD_eq
  intro i hi
  simp only [tailLanes, BitVec.getLsbD_extractLsb', BitVec.getLsbD_append]
  interval_cases j <;> interval_cases i <;> simp

/-- No stale byte is a pending one (R24). -/
theorem State.pending_getElem?_getD (s : State) (j : Nat) :
    s.pending[j]?.getD 0#8 = if j < s.pcnt.toNat then pbufAt s j else 0#8 := by
  split_ifs with h
  · rw [State.pending_getElem? h, Option.getD_some]
  · rw [List.getElem?_eq_none (by simpa using h), Option.getD_none]

/-! ## The bytes of a digest -/

/-- The same bytes read from either end (R10, R54). -/
theorem parseBe32_reverse (bytes : List Byte) : parseBe32 bytes.reverse = leNat bytes := by
  rw [parseBe32, leNat, List.foldl_reverse]
  congr
  funext b n
  ring

/-- The serialization is the digest's lanes from the highest down (R145). -/
theorem digestBytes_eq_reverse (d : Word) : digestBytes d = [lane d 0, lane d 1, lane d 2, lane d 3].reverse := rfl

theorem parseBe32_digestBytes (d : Word) : parseBe32 (digestBytes d) = d.toNat := by
  rw [digestBytes_eq_reverse, parseBe32_reverse, ← toNat_lanes, lanes_lane]

/-- The reversed word has the digest's lanes in the opposite order (R12). -/
theorem bswap32_eq_lanes (d : Word) : bswap32 d = lanes (lane d 3) (lane d 2) (lane d 1) (lane d 0) := rfl

/-- Byte lane k of the response is serialized byte k (R144). -/
theorem lanes_bswap32 (d : Word) :
    [lane (bswap32 d) 0, lane (bswap32 d) 1, lane (bswap32 d) 2, lane (bswap32 d) 3] = digestBytes d := by
  rw [bswap32_eq_lanes, lane_zero_lanes, lane_one_lanes, lane_two_lanes, lane_three_lanes]
  rfl

/-! ## Registers under commands -/

theorem Instr.responds_iff {i : Instr} : i.responds = true ↔ i = .digest ∨ i = .digestBe ∨ i = .info := by
  cases i <;> simp [Instr.responds]

/-- A command that answers writes no register (R142, R147). -/
theorem registers_after_of_responds {i : Instr} (h : i.responds = true) (s : State) :
    (after i s).registers = s.registers := by
  obtain ⟨d, -, hafter⟩ := after_reader (Instr.responds_iff.1 h) s
  rw [hafter, State.registers_respond]

/-- A write of one chunk on equal registers leaves equal registers (R102). -/
theorem WriteDone.registers_congr {m : Mixer} {chunk : List Byte} {s t s' t' : State} (hw : WriteDone m chunk s t)
    (hw' : WriteDone m chunk s' t') (h : s.registers = s'.registers) : t.registers = t'.registers := by
  simp only [State.registers, Registers.mk.injEq] at h ⊢
  obtain ⟨hacc, hpending, hpcnt, htlen, hseed, htrace⟩ := h
  refine ⟨?_, ?_, ?_, ?_, ?_, ?_⟩
  · rw [hw.acc, hw'.acc, hacc, hpending]
  · rw [hw.pending, hw'.pending, hpending]
  · rw [hw.pcnt, hw'.pcnt, hpcnt]
  · rw [hw.tlen, hw'.tlen, htlen]
  · rw [hw.seed, hw'.seed, hseed]
  · rw [hw.wordTrace, hw'.wordTrace, htrace, hpending]

/-- What a command makes of the registers depends on them and on seed_i alone: on no stale byte, response or port level. -/
theorem registers_after_congr (i : Instr) {s s' : State} (h : s.registers = s'.registers) (hseedI : s.seedI = s'.seedI) :
    (after i s).registers = (after i s').registers := by
  cases i with
  | construct => rw [after, after, State.registers_construct, State.registers_construct, hseedI]
  | reset =>
    have hseed : s.seed = s'.seed := congrArg Registers.seed h
    rw [after, after, State.registers_reinit, State.registers_reinit, hseed]
  | digest | digestBe | info => exact h
  | writeNb0 | writeNb1 | writeNb2 | writeNb3 | writeNb4 => exact (write_done rfl s).registers_congr (write_done rfl s') h

/-- Leaving out the commands that answer leaves the registers as they are (R245). -/
theorem registers_foldl_filter (is : List Instr) {s s' : State} (h : s.registers = s'.registers)
    (hseedI : s.seedI = s'.seedI) :
    (is.foldl (fun s i => after i s) s).registers =
      ((is.filter fun i => ! i.responds).foldl (fun s i => after i s) s').registers := by
  induction is generalizing s s' with
  | nil => exact h
  | cons i is ih =>
    cases hi : i.responds with
    | true =>
      rw [List.filter_cons_of_neg (by simp [hi]), List.foldl_cons]
      exact ih ((registers_after_of_responds hi s).trans h) ((after_seedI i s).trans hseedI)
    | false =>
      rw [List.filter_cons_of_pos (by simp [hi]), List.foldl_cons, List.foldl_cons]
      exact ih (registers_after_congr i h hseedI) (by rw [after_seedI, after_seedI, hseedI])

/-! ## The statements about DIGEST, DIGEST_BE and INFO (41_digest.md) -/

/-- Settles O31: each initialisation leaves the empty stream's closed form, beats take it to the stream's, and DIGEST reads it. -/
theorem digestClosedForm : Obligations.DigestClosedForm := by
  intro is stream hbeats
  refine ⟨fun s => ?_, fun s => ?_, fun s v rest hlow he => ?_⟩
  · rw [List.cons_append, execAll_cons]
    exact execAll_digest_of_init hbeats (s.registers_reinit Config.mixer)
  · rw [List.cons_append, execAll_cons]
    exact execAll_digest_of_init hbeats (s.registers_construct Config.mixer s.seedI)
  · obtain ⟨u, hexec, hrsp⟩ := execAll_digest_of_init hbeats (State.registers_release hlow v rest)
    exact ⟨_, u, step_rstRise he, hexec, hrsp⟩

/-- Settles O33: the tail at the port is the pending bytes, of which there are pcnt. -/
theorem digestPortsCarryOnlyValidBytes : Obligations.DigestPortsCarryOnlyValidBytes := by
  intro s
  refine ⟨tailLanes s.pending, after .digest s, fun j hj => ?_, exec_after .digest s, ?_⟩
  · exact (tailLanes_lane s.pending hj).trans (s.pending_getElem?_getD j)
  · have hcount : BitVec.ofNat 2 s.pending.length = s.pcnt := by
      rw [s.pending_length, BitVec.ofNat_toNat, BitVec.setWidth_eq]
    rw [after, State.respond_rsp, State.finalize, Mixer.finalize_eq_ports, hcount]
    rfl

/-- Settles O34: the response is the digest's lanes reversed, and the serialization read big-endian is its lanes read
little-endian. -/
theorem digestBeIsTheSerialization : Obligations.DigestBeIsTheSerialization :=
  ⟨fun _ => decode_eq_legal.trans eq_comm, rfl, fun s =>
    ⟨s.finalize Config.mixer, bswap32 (s.finalize Config.mixer), exec_after .digest s, exec_after .digestBe s, rfl,
      lanes_bswap32 _, parseBe32_digestBytes _⟩⟩

/-- Settles O35: the serialization's four bytes stand after all of the host's own. -/
theorem prefixIsOnlyAppendedTo : Obligations.PrefixIsOnlyAppendedTo := by
  intro before d
  refine ⟨List.length_append, List.take_left, ?_⟩
  rw [digestBytesAfter, List.drop_left, parseBe32_digestBytes]

/-- Settles O38: by induction on the list, since the readers write no register and the other commands read no response. -/
theorem digestsNeverDisturbTheStream : Obligations.DigestsNeverDisturbTheStream := fun is s =>
  ⟨_, _, execAll_foldl is s, execAll_foldl _ s, registers_foldl_filter is rfl rfl⟩

/-- Settles O32: finalization is AVAL of PFIN of the snapshot, and answering writes nothing but the response. -/
theorem digestFinalizesASnapshot : Obligations.DigestFinalizesASnapshot := fun s => exec_after .digest s

/-- Settles O36: INFO has one word, and its answer is hardwired. -/
theorem infoAnswersTheMetadata : Obligations.InfoAnswersTheMetadata :=
  ⟨fun _ => decode_eq_legal.trans eq_comm, rfl, fun s => exec_after .info s⟩

end Sys2Proof.Machine

/-! # RESET and CONSTRUCT

SUPPORT. What the two initialisations leave, said once for both (42_control.md R171 to R174). -/

namespace Sys2Proof.Machine

open Sys2Proof.Statements

/-! ## What an initialisation leaves -/

/-- The registers of the empty stream, one by one (R171, R174). -/
theorem State.registers_eq_closedForm_nil {m : Mixer} {v : Seed} {s : State} :
    s.registers = closedForm m v [] ↔
      s.acc = m.init v ∧ s.pcnt = 0 ∧ s.tlen = 0 ∧ s.wordTrace = [] ∧ s.seed = v ∧ s.pending = [] := by
  simp only [State.registers, closedForm, Registers.mk.injEq]
  constructor
  · rintro ⟨hacc, hpending, hpcnt, htlen, hseed, htrace⟩
    exact ⟨hacc, hpcnt, htlen, htrace, hseed, hpending⟩
  · rintro ⟨hacc, hpcnt, htlen, htrace, hseed, hpending⟩
    exact ⟨hacc, hpending, hpcnt, htlen, hseed, htrace⟩

/-- A command that does not answer writes nothing outside the registers a stream decides (R100, R171, R174). -/
theorem sameOutside_after {i : Instr} (h : i.responds = false) (s : State) : sameOutside s (after i s) := by
  obtain ⟨hrstN, hfault, hevents, hindex, hseedI⟩ := after_outside i s
  obtain ⟨hrsp, hresponses⟩ := after_of_not_reader (fun hi => Bool.false_ne_true (h.symm.trans (Instr.responds_iff.2 hi))) s
  exact ⟨hfault, hresponses, hrstN, hrsp, hseedI, hevents, hindex⟩

/-! ## Beats and a DIGEST from the empty stream -/

/-- Beats and a DIGEST in a state that holds the empty stream end in the closed form of the stream, with its digest waiting: what
the state held outside its registers plays no part (R113, R149). -/
theorem execAll_digest_registers_of_init {is : List Instr} {v : Seed} {stream : List Byte} {s : State}
    (hbeats : beatsOf is stream) (hs : s.registers = closedForm Config.mixer v []) :
    ∃ t : State, execAll (is ++ [.digest]) s = .next t ∧ t.registers = closedForm Config.mixer v stream ∧
      t.rsp = some (Config.mixer.digestOf v stream) := by
  obtain ⟨t, hexec, hrsp⟩ := execAll_digest_of_init hbeats hs
  refine ⟨t, hexec, ?_, hrsp⟩
  obtain ⟨hwrite, rfl⟩ := hbeats
  rw [execAll_foldl, List.foldl_append] at hexec
  cases hexec
  exact (WriteDone.of_beats hwrite s).registers_of_init hs

/-! ## The statements about RESET and CONSTRUCT (42_control.md) -/

/-- Settles O40: CONSTRUCT has one word, leaves the empty stream of the seed on seed_i, and RESET with that seed makes the same
observation. -/
theorem constructStartsAFreshInstance : Obligations.ConstructStartsAFreshInstance := by
  refine ⟨fun _ => decode_eq_legal.trans eq_comm, fun _ idle => AsmCmd.events_of_instr (i := .construct) rfl idle,
    fun s => ?_, fun m v s hunseeded => ?_⟩
  · obtain ⟨hacc, hpcnt, htlen, htrace, hseed, hpending⟩ :=
      State.registers_eq_closedForm_nil.1 (s.registers_construct Config.mixer s.seedI)
    refine ⟨after .construct s, after .reset { s with seed := s.seedI }, exec_after _ _, hseed, hacc, hpcnt, htlen, htrace,
      hpending, sameOutside_after rfl s, exec_after _ _, ?_⟩
    rw [observe_after, observe_after]
    rfl
  · obtain ⟨hacc, -, htlen, -, -, hpending⟩ := State.registers_eq_closedForm_nil.1 (s.registers_construct m v)
    obtain ⟨hacc', -, htlen', -, -, hpending'⟩ := State.registers_eq_closedForm_nil.1 (s.registers_reinit m)
    exact ⟨by rw [hacc, hacc', hunseeded v s.seed], hpending.trans hpending'.symm, htlen.trans htlen'.symm⟩

/-- Settles O42: both initialisations leave the empty stream of one seed, and what follows reads nothing else. -/
theorem resetThenWriteEqualsFresh : Obligations.ResetThenWriteEqualsFresh := by
  intro s s' is stream hbeats hseed
  have hconstruct : (after .construct s').registers = closedForm Config.mixer s.seed [] :=
    hseed ▸ s'.registers_construct Config.mixer s'.seedI
  obtain ⟨t, hexec, hreg, hrsp⟩ := execAll_digest_registers_of_init hbeats (s.registers_reinit Config.mixer)
  obtain ⟨t', hexec', hreg', hrsp'⟩ := execAll_digest_registers_of_init hbeats hconstruct
  exact ⟨t, t', (execAll_cons .reset _ s).trans hexec, (execAll_cons .construct _ s').trans hexec', hreg.trans hreg'.symm,
    hrsp.trans hrsp'.symm⟩

/-- Settles O39: RESET leaves the empty stream of the seed it keeps, and writes nothing outside. -/
theorem resetRestoresTheInitialState : Obligations.ResetRestoresTheInitialState := by
  intro s
  obtain ⟨hacc, hpcnt, htlen, htrace, hseed, hpending⟩ :=
    State.registers_eq_closedForm_nil.1 (s.registers_reinit Config.mixer)
  exact ⟨after .reset s, exec_after .reset s, hacc, hpcnt, htlen, htrace, hseed, hpending, sameOutside_after rfl s⟩

end Sys2Proof.Machine

/-! # The contracts of a plug-in set

SUPPORT. What a one-word plug-in set makes of acc1 over a whole list of words and at finalization (43_plugin_interface.md R198). -/

namespace Sys2Proof

open Sys2Proof.Machine

/-! ## One-word plug-in sets -/

section oneWord
variable {m : Mixer} (h : m.WordContract .one)
include h

/-- UPD returns acc1 as it got it, so any number of words leaves it. -/
theorem Mixer.WordContract.foldl_upd_acc1 (ws : List Word) (a : Acc) : (ws.foldl m.upd a).acc1 = a.acc1 := by
  obtain ⟨-, hupd, -⟩ := h
  induction ws generalizing a with
  | nil => rfl
  | cons w ws ih => rw [List.foldl_cons, ih, hupd]

/-- UPD reads no acc1, so accumulators that agree in acc0 still agree in it after any number of words. -/
theorem Mixer.WordContract.foldl_upd_acc0_congr (ws : List Word) {a a' : Acc} (ha : a.acc0 = a'.acc0) :
    (ws.foldl m.upd a).acc0 = (ws.foldl m.upd a').acc0 := by
  obtain ⟨-, -, -, hupd, -⟩ := h
  induction ws generalizing a a' with
  | nil => exact ha
  | cons w ws ih => exact ih (hupd a a' w ha)

/-- Neither PFIN nor AVAL reads acc1: PFIN's results agree in acc0, which is all that AVAL takes of them. -/
theorem Mixer.WordContract.finalize_congr {tail : List Byte} (htail : tail.length ≤ Config.pbufDepth) (len : Len)
    {a a' : Acc} (ha : a.acc0 = a'.acc0) : m.finalize a tail len = m.finalize a' tail len := by
  obtain ⟨-, -, -, -, hpfin, haval⟩ := h
  exact haval _ _ len (hpfin a a' tail len htail ha)

end oneWord

end Sys2Proof

namespace Sys2Proof.Machine

open Sys2Proof.Statements

/-- The pending bytes are a tail that PFIN's contract speaks of (R24, R193). -/
theorem State.pending_length_le_pbufDepth (s : State) : s.pending.length ≤ Config.pbufDepth := by
  rw [State.pending_length]
  exact Nat.le_of_lt_succ s.pcnt.isLt

/-! ## The statements about plug-in sets (43_plugin_interface.md) -/

/-- Settles O47: a write is UPD over the words it completes, and the words, the tail and the length are the same under both
values of acc1. -/
theorem singleWordVariantIgnoresAcc1 : Obligations.SingleWordVariantIgnoresAcc1 := by
  intro m s x chunk hone
  have hwrite := (State.writeChunk_done m chunk s).acc
  have hwrite' := (State.writeChunk_done m chunk { s with acc1 := x }).acc
  refine ⟨?_, ?_, ?_⟩
  · exact (congrArg Acc.acc1 hwrite).trans (hone.foldl_upd_acc1 _ s.acc)
  · calc (({ s with acc1 := x } : State).writeChunk m chunk).acc0
        = ((wordsOf (s.pending ++ chunk)).foldl m.upd ⟨s.acc0, x⟩).acc0 := congrArg Acc.acc0 hwrite'
      _ = ((wordsOf (s.pending ++ chunk)).foldl m.upd s.acc).acc0 := hone.foldl_upd_acc0_congr _ rfl
      _ = (s.writeChunk m chunk).acc0 := (congrArg Acc.acc0 hwrite).symm
  · exact hone.finalize_congr s.pending_length_le_pbufDepth s.tlen rfl

/-- Settles O46: construction leaves INIT of its seed, which the contract says is the two halves in the order. -/
theorem pairSeedOrderDecidesTheStart : Obligations.PairSeedOrderDecidesTheStart := by
  intro m order v s hpair
  have hacc : (s.construct m v).acc = seedHalves order v := hpair v
  constructor
  · rintro rfl
    exact hacc
  · rintro rfl
    exact hacc

end Sys2Proof.Machine

/-! # Illegal words and the fault mark

SUPPORT. The conditions of the table of R213 on a word's fields, the decoder's answer against them, and a step of a marked
block (60_exceptions.md R210 to R213, R221). -/

namespace Sys2Proof

/-! ## The reasons of R213 -/

theorem IllegalReason.code_injective : Function.Injective IllegalReason.code := by
  intro r r'
  cases r <;> cases r' <;> decide

theorem IllegalReason.forall_iff {p : IllegalReason → Prop} :
    (∀ r, p r) ↔ p .reservedOpcode ∧ p .reservedBit ∧ p .nbRange ∧ p .nonzeroOperand ∧ p .dirtyLane := by
  refine ⟨fun h => ⟨h _, h _, h _, h _, h _⟩, fun ⟨hopcode, hbit, hrange, hoperand, hlane⟩ r => ?_⟩
  cases r <;> assumption

end Sys2Proof

namespace Sys2Proof.Machine

open Sys2Proof.Statements

/-! ## The conditions of R213 on the fields of a word -/

section reasonHolds
variable (w : CmdWord)

theorem toNat_cmdOp : (cmdOp w).toNat = w.toNat / 2 ^ 36 := by
  rw [cmdOp, BitVec.extractLsb'_toNat, Nat.shiftRight_eq_div_pow]
  have := w.isLt
  omega

theorem toNat_cmdRsv : (cmdRsv w).toNat = w.toNat / 2 ^ 35 % 2 := by
  rw [cmdRsv, BitVec.extractLsb'_toNat, Nat.shiftRight_eq_div_pow, pow_one]

theorem toNat_cmdNb : (cmdNb w).toNat = w.toNat / 2 ^ 32 % 8 := by
  rw [cmdNb, BitVec.extractLsb'_toNat, Nat.shiftRight_eq_div_pow]

theorem toNat_cmdData : (cmdData w).toNat = w.toNat % 2 ^ 32 := by
  rw [cmdData, BitVec.extractLsb'_toNat, Nat.shiftRight_zero]

theorem opReserved_iff (op : BitVec 4) : opReserved op = true ↔ op.toNat = 0 ∨ 7 ≤ op.toNat := by
  revert op; decide

@[simp] theorem reasonHolds_reservedOpcode : reasonHolds w .reservedOpcode ↔ opReserved (cmdOp w) = true := by
  rw [opReserved_iff, toNat_cmdOp, reasonHolds]

@[simp] theorem reasonHolds_reservedBit : reasonHolds w .reservedBit ↔ cmdRsv w = 1#1 := by
  rw [← BitVec.toNat_inj, toNat_cmdRsv, reasonHolds]; rfl

@[simp] theorem reasonHolds_nbRange : reasonHolds w .nbRange ↔ cmdOp w = 3#4 ∧ 5 ≤ (cmdNb w).toNat := by
  rw [← BitVec.toNat_inj, toNat_cmdOp, toNat_cmdNb, reasonHolds]; rfl

@[simp] theorem reasonHolds_nonzeroOperand :
    reasonHolds w .nonzeroOperand ↔ cmdOp w ≠ 3#4 ∧ w.extractLsb' 0 35 ≠ 0#35 := by
  rw [Ne, Ne, ← BitVec.toNat_inj, ← BitVec.toNat_inj, toNat_cmdOp, BitVec.extractLsb'_toNat, Nat.shiftRight_zero,
    reasonHolds]
  rfl

@[simp] theorem reasonHolds_dirtyLane : reasonHolds w .dirtyLane ↔
    cmdOp w = 3#4 ∧ (cmdNb w).toNat < 4 ∧ cmdData w >>> (8 * (cmdNb w).toNat) ≠ 0#32 := by
  rw [Ne, ← BitVec.toNat_inj, ← BitVec.toNat_inj, BitVec.toNat_ushiftRight, Nat.shiftRight_eq_div_pow, toNat_cmdOp,
    toNat_cmdNb, toNat_cmdData, reasonHolds]
  rfl

end reasonHolds

/-! ## The decoder's answer and the table -/

/-- What R213 asks of an answer to `w`: a legal word has no reason, and a reported reason is the first that applies. -/
def ReportsFirst (w : CmdWord) : Decoded → Prop
  | .legal _ => ∀ r : IllegalReason, ¬ reasonHolds w r
  | .illegal r => reasonHolds w r ∧ ∀ r' : IllegalReason, r'.code < r.code → ¬ reasonHolds w r'

theorem reportsFirst_reservedOpcode {w : CmdWord} (hres : opReserved (cmdOp w) = true) :
    ReportsFirst w (.illegal .reservedOpcode) := by
  simp [ReportsFirst, IllegalReason.forall_iff, IllegalReason.code, hres]

theorem reportsFirst_reservedBit {w : CmdWord} (hres : ¬ opReserved (cmdOp w) = true) (hrsv : cmdRsv w = 1#1) :
    ReportsFirst w (.illegal .reservedBit) := by
  simp [ReportsFirst, IllegalReason.forall_iff, IllegalReason.code, hres, hrsv]

/-- Of a word that is not a WRITE, without a reserved opcode or bit, the operand is left to check. -/
theorem reportsFirst_decodeBare {w : CmdWord} (hres : ¬ opReserved (cmdOp w) = true) (hrsv : ¬ cmdRsv w = 1#1)
    (hop : cmdOp w ≠ 3#4) (i : Instr) : ReportsFirst w (decodeBare w i) := by
  unfold decodeBare
  split
  next hzero => simp [ReportsFirst, IllegalReason.forall_iff, hres, hrsv, hop, hzero]
  next hzero => simp [ReportsFirst, IllegalReason.forall_iff, IllegalReason.code, hres, hrsv, hop, hzero]

/-- The three bands of a WRITE's byte count: a short beat, a full one, and no count at all (R82). -/
theorem decodeWrite_cases (w : CmdWord) :
    ((cmdNb w).toNat < 4 ∧ ∃ i : Instr, decodeWrite w = decodeBeat w (cmdNb w).toNat i) ∨
    ((cmdNb w).toNat = 4 ∧ ∃ i : Instr, decodeWrite w = .legal i) ∨
    (5 ≤ (cmdNb w).toNat ∧ decodeWrite w = .illegal .nbRange) := by
  unfold decodeWrite
  split_ifs with h0 h1 h2 h3 h4
  · exact .inl ⟨by simp [h0], _, by rw [h0]; rfl⟩
  · exact .inl ⟨by simp [h1], _, by rw [h1]; rfl⟩
  · exact .inl ⟨by simp [h2], _, by rw [h2]; rfl⟩
  · exact .inl ⟨by simp [h3], _, by rw [h3]; rfl⟩
  · exact .inr (.inl ⟨by simp [h4], _, rfl⟩)
  · exact .inr (.inr ⟨by bv_omega, rfl⟩)

/-- Of a WRITE word without the reserved bit, the count and then the unused lanes are left to check. -/
theorem reportsFirst_decodeWrite {w : CmdWord} (hrsv : ¬ cmdRsv w = 1#1) (hop : cmdOp w = 3#4) :
    ReportsFirst w (decodeWrite w) := by
  have hres : opReserved 3#4 = false := rfl
  obtain ⟨hshort, i, h⟩ | ⟨hfull, i, h⟩ | ⟨hrange, h⟩ := decodeWrite_cases w <;> rw [h]
  · have hrange : (cmdNb w).toNat < 5 := by omega
    unfold decodeBeat
    split
    next hclean => simp [ReportsFirst, IllegalReason.forall_iff, hres, hrsv, hop, hrange, hclean]
    next hdirty =>
      simp [ReportsFirst, IllegalReason.forall_iff, IllegalReason.code, hres, hrsv, hop, hshort, hrange, hdirty]
  · simp [ReportsFirst, IllegalReason.forall_iff, hres, hrsv, hop, hfull]
  · simp [ReportsFirst, IllegalReason.forall_iff, IllegalReason.code, hres, hrsv, hop, hrange]

/-- The decoder makes the checks of R213 in the table's order. -/
theorem reportsFirst_decode (w : CmdWord) : ReportsFirst w (decode w) := by
  unfold decode
  split_ifs with hres hrsv hconstruct hreset hwrite hdigest hdigestBe
  · exact reportsFirst_reservedOpcode hres
  · exact reportsFirst_reservedBit hres hrsv
  · exact reportsFirst_decodeBare hres hrsv (by simp [hconstruct]) _
  · exact reportsFirst_decodeBare hres hrsv (by simp [hreset]) _
  · exact reportsFirst_decodeWrite hrsv hwrite
  · exact reportsFirst_decodeBare hres hrsv hwrite _
  · exact reportsFirst_decodeBare hres hrsv hwrite _
  · exact reportsFirst_decodeBare hres hrsv hwrite _

theorem not_reasonHolds_of_legal {w : CmdWord} {i : Instr} (h : decode w = .legal i) (r : IllegalReason) :
    ¬ reasonHolds w r := by
  have hreports : ReportsFirst w (.legal i) := h ▸ reportsFirst_decode w
  exact hreports r

theorem first_reason_of_illegal {w : CmdWord} {r : IllegalReason} (h : decode w = .illegal r) :
    reasonHolds w r ∧ ∀ r' : IllegalReason, r'.code < r.code → ¬ reasonHolds w r' := by
  have hreports : ReportsFirst w (.illegal r) := h ▸ reportsFirst_decode w
  exact hreports

/-- Of two reasons that both come first, neither code is the smaller, so they are one reason. -/
theorem decode_of_first_reason {w : CmdWord} {r : IllegalReason} (hr : reasonHolds w r)
    (hfirst : ∀ r' : IllegalReason, r'.code < r.code → ¬ reasonHolds w r') : decode w = .illegal r := by
  cases h : decode w with
  | legal i => exact absurd hr (not_reasonHolds_of_legal h r)
  | illegal r' =>
    obtain ⟨hr', hfirst'⟩ := first_reason_of_illegal h
    have hle : r.code ≤ r'.code := Nat.le_of_not_lt fun hlt => hfirst r' hlt hr'
    have hge : r'.code ≤ r.code := Nat.le_of_not_lt fun hlt => hfirst' r hlt hr
    rw [IllegalReason.code_injective (Nat.le_antisymm hge hle)]

/-! ## Steps that run nothing -/

theorem step_idle {s : State} (he : s.events = []) (hfault : s.fault = none) : step s = .next s := by
  simp [step, portStep, he, State.unlessMarked_of_unmarked hfault]

/-- A marked block stops the model at whatever comes next but a change of rst_ni (R212). -/
theorem step_of_marked {s : State} {r : IllegalReason} {w : CmdWord} (hfault : s.fault = some ⟨r, w⟩)
    (hreset : ∀ e : HostEvent, s.events.head? = some e → e ≠ .rstFall ∧ ∀ v : Seed, e ≠ .rstRise v) :
    step s = .fault (.illegalCommand r w) := by
  have hmarked (o : Host.Outcome State Fault Refusal) : s.unlessMarked o = .fault (.illegalCommand r w) := by
    simp [State.unlessMarked, hfault]
  unfold step portStep
  split
  next he => simp [he] at hreset
  next he => simp [he] at hreset
  all_goals exact hmarked _

/-! ## What leaves the fault mark -/

/-- No command touches the mark, RESET and CONSTRUCT included (R172, R176). -/
theorem after_fault (i : Instr) (s : State) : (after i s).fault = s.fault := by
  obtain ⟨-, hfault, -⟩ := after_outside i s
  exact hfault

/-- A rise of rst_ni on a pin that is high is no edge (log entry 6). -/
theorem State.releaseReset_of_high {s : State} (hhigh : s.rstN = true) (m : Mixer) (v : Seed) (rest : List HostEvent) :
    s.releaseReset m v rest = { s with events := rest } := if_pos hhigh

/-! ## The statements about exceptions (60_exceptions.md) -/

/-- Settles O4: a legal word has no reason, an illegal one's is the first, and there is only one first reason. -/
theorem reportsFirstFailingCheck : Obligations.ReportsFirstFailingCheck := by
  intro w
  refine ⟨fun r => ⟨first_reason_of_illegal, fun ⟨hr, hfirst⟩ => decode_of_first_reason hr hfirst⟩, ?_, rfl⟩
  constructor
  · rintro ⟨i, h⟩
    exact not_reasonHolds_of_legal h
  · intro hnone
    cases h : decode w with
    | legal i => exact ⟨i, rfl⟩
    | illegal r => exact absurd (first_reason_of_illegal h).1 (hnone r)

/-- Settles O10: accepting the word and setting the mark leaves the block ready, and the mark stops the next step. -/
theorem illegalWordMarksAndStops : Obligations.IllegalWordMarksAndStops := by
  intro s w v rest r hready hd
  have hstep := step_of_ready_of_illegal hready hd
  obtain ⟨-, hrstN, hrsp, -⟩ := hready
  exact ⟨(s.accept v rest).raiseIllegal r w, hstep, rfl, (State.cmdReady_iff _).2 ⟨hrstN, hrsp⟩,
    step_of_marked (s := (s.accept v rest).raiseIllegal r w) rfl⟩

/-- Settles O11: a marked block takes no step but a change of rst_ni, and of those only the release clears the mark. -/
theorem faultMarkIsSticky : Obligations.FaultMarkIsSticky := by
  refine ⟨fun s t f hfault hstep => ?_, fun i s => ⟨after i s, exec_after i s, after_fault i s⟩⟩
  cases step_case hstep with
  | fall rest he ht => exact .inl (by rw [ht, State.assertReset_fault, hfault])
  | rise v rest he ht =>
    cases hpin : s.rstN with
    | true => exact .inl (by rw [ht, State.releaseReset_of_high hpin, hfault])
    | false => exact .inr ⟨v, rest, he, rfl⟩
  | run _ _ _ _ _ hf | mark _ _ _ _ _ hf | stall _ _ _ _ hf | take _ _ hf | idle _ hf =>
    rw [hf] at hfault
    cases hfault

/-- Settles O12: every command has a state it leaves, and the mark there is the one before it. -/
theorem everyLegalCommandCompletes : Obligations.EveryLegalCommandCompletes :=
  fun _ i s _ => ⟨after i s, exec_after i s, after_fault i s⟩

/-- Settles O18: with no event and no mark a step has nothing to do. -/
theorem idleHoldsEverything : Obligations.IdleHoldsEverything := fun _ he hfault => step_idle he hfault

end Sys2Proof.Machine

/-! # rst_ni, and the launch of a run

SUPPORT. What a fall and a release of rst_ni leave, and what a step keeps of the ports (70_reset_and_hazards.md R240 to R242). -/

namespace Sys2Proof.Machine

/-! ## A fall and a release -/

theorem step_rstFall {s : State} {rest : List HostEvent} (he : s.events = .rstFall :: rest) :
    step s = .next (s.assertReset rest) := by
  simp [step, portStep, he]

theorem State.releaseReset_of_low {s : State} (hlow : s.rstN = false) (m : Mixer) (v : Seed) (rest : List HostEvent) :
    s.releaseReset m v rest = { s.powerOnReset m v with events := rest } := if_neg (by simp [hlow])

/-- The release of rst_ni leaves what the launch with its seed_i has, of the observation and at the ports (R240, R249). -/
theorem State.release_like_launch {s : State} (hlow : s.rstN = false) (v : Seed) (rest : List HostEvent) :
    (s.releaseReset Config.mixer v rest).observe = (State.launch v).observe ∧
      (s.releaseReset Config.mixer v rest).cmdReady = true ∧ (s.releaseReset Config.mixer v rest).rsp = none ∧
      (s.releaseReset Config.mixer v rest).events = rest := by
  rw [State.releaseReset_of_low hlow]
  exact ⟨rfl, rfl, rfl, rfl⟩

/-- A rise of rst_ni leaves it high, whatever it was. -/
theorem State.releaseReset_rstN (m : Mixer) (v : Seed) (rest : List HostEvent) (s : State) :
    (s.releaseReset m v rest).rstN = true := by
  cases hpin : s.rstN with
  | true => rw [State.releaseReset_of_high hpin, hpin]
  | false => rw [State.releaseReset_of_low hpin, State.powerOnReset_rstN]

/-! ## The statements about rst_ni (70_reset_and_hazards.md) -/

/-- Settles O16: the release leaves the observation of the launch with its seed_i, in which no field is the earlier state's. -/
theorem resetErasesTheRun : Obligations.ResetErasesTheRun := by
  intro s s' v rest he he'
  have hrelease (x : State) := State.release_like_launch (s := x.assertReset (.rstRise v :: rest)) rfl v rest
  obtain ⟨hobs, -, hrsp, -⟩ := hrelease s
  obtain ⟨hobs', -, -, -⟩ := hrelease s'
  exact ⟨_, _, _, _, step_rstFall he, step_rstRise rfl, step_rstFall he', step_rstRise rfl, rfl, hrsp,
    congrArg Observation.responses hobs, hobs.trans hobs'.symm,
    State.reflects_of_registers (State.registers_release rfl v rest), congrArg Observation.seed hobs, congrArg Observation.fault hobs⟩

/-- Settles O48: a command is accepted only while rst_ni is high, a fall drops the response, and no other step lowers rst_ni or
gives a response. -/
theorem stepKeepsResponsesOutOfReset : Obligations.StepKeepsResponsesOutOfReset := by
  intro s t hs h hrsp
  cases step_case h with
  | fall rest _ ht => simp [ht] at hrsp
  | rise v rest _ ht => rw [ht, State.releaseReset_rstN]
  | run w v rest i _ _ hr _ ht =>
    obtain ⟨hrstN, -⟩ := s.cmdReady_iff.1 hr
    obtain ⟨hkept, -⟩ := after_outside i (s.accept v rest)
    rw [ht, hkept, State.accept_rstN, hrstN]
  | mark w v rest r _ _ hr _ ht =>
    obtain ⟨hrstN, -⟩ := s.cmdReady_iff.1 hr
    rw [ht, State.raiseIllegal_rstN, State.accept_rstN, hrstN]
  | take rest _ _ ht => simp [ht] at hrsp
  | stall _ _ _ _ _ _ ht | idle _ _ ht =>
    subst ht
    exact hs hrsp

/-- Settles O15: both outputs are gated by rst_ni, and the release leaves the empty stream of its seed_i with nothing recorded. -/
theorem releasePerformsConstruction : Obligations.ReleasePerformsConstruction := by
  refine ⟨fun s hlow => by simp [State.cmdReady, State.rspValid, hlow], fun s v rest hlow he => ?_⟩
  obtain ⟨hacc, hpcnt, htlen, htrace, hseed, -⟩ :=
    State.registers_eq_closedForm_nil.1 (State.registers_release hlow v rest)
  obtain ⟨hobs, hready, hrsp, hevents⟩ := State.release_like_launch hlow v rest
  exact ⟨_, step_rstRise he, hseed, hacc, hpcnt, htlen, congrArg Observation.fault hobs, htrace,
    congrArg Observation.responses hobs, hready, by simp [State.rspValid, hrsp], hevents⟩

/-- Settles O49: the launch is a release of State.reset, and every release has its observation. -/
theorem launchIsTheStateAfterPowerOnReset : Obligations.LaunchIsTheStateAfterPowerOnReset := by
  refine ⟨fun v => ⟨State.reset.registers_powerOnReset Config.mixer v, rfl, rfl, rfl, .inl ⟨v, rfl⟩⟩, fun s v he => ?_, rfl⟩
  obtain ⟨hobs, hready, -, hevents⟩ := State.release_like_launch (s := s.assertReset [.rstRise v]) rfl v []
  exact ⟨_, _, step_rstFall he, step_rstRise rfl, hobs, hready, hevents⟩

end Sys2Proof.Machine

/-! # Runs of a program

SUPPORT. A run of legal words ends in what its commands do one after another, a run with an illegal word ends nowhere, and no step
leaves a valid end (70_reset_and_hazards.md R246, R249). -/

namespace Sys2Proof.Machine

open Sys2Proof.Statements

/-! ## Commands with their levels on seed_i -/

/-- The state a command leaves that is accepted with this level on seed_i (R75). -/
def State.perform (s : State) (p : Instr × Seed) : State := after p.1 (s.withSeedI p.2)

theorem execProgram_foldl (ps : List (Instr × Seed)) (s : State) : execProgram ps s = .next (ps.foldl State.perform s) := by
  induction ps generalizing s with
  | nil => rfl
  | cons p ps ih =>
    rw [List.foldl_cons, ← ih, execProgram, exec_after]
    rfl

section perform
variable (p : Instr × Seed) (ps : List (Instr × Seed)) (s : State)

theorem State.perform_rstN : (s.perform p).rstN = s.rstN := by
  obtain ⟨hrstN, -⟩ := after_outside p.1 (s.withSeedI p.2)
  exact hrstN

theorem State.perform_fault : (s.perform p).fault = s.fault := after_fault p.1 (s.withSeedI p.2)

/-- A command that answers adds one response (R74). -/
theorem State.perform_responses_length :
    (s.perform p).responses.length = s.responses.length + if p.1.responds then 1 else 0 := by
  by_cases hi : p.1.responds = true
  · obtain ⟨d, -, hafter⟩ := after_reader (Instr.responds_iff.1 hi) (s.withSeedI p.2)
    rw [if_pos hi, State.perform, hafter, State.respond_responses, List.length_append]
    rfl
  · obtain ⟨-, hresponses⟩ := after_of_not_reader (fun h => hi (Instr.responds_iff.2 h)) (s.withSeedI p.2)
    rw [if_neg hi, State.perform, hresponses]
    rfl

theorem foldl_perform_rstN : (ps.foldl State.perform s).rstN = s.rstN := by
  induction ps generalizing s with
  | nil => rfl
  | cons p ps ih => rw [List.foldl_cons, ih, State.perform_rstN]

theorem foldl_perform_fault : (ps.foldl State.perform s).fault = s.fault := by
  induction ps generalizing s with
  | nil => rfl
  | cons p ps ih => rw [List.foldl_cons, ih, State.perform_fault]

theorem foldl_perform_responses_length : (ps.foldl State.perform s).responses.length =
    s.responses.length + (ps.filter (·.1.responds)).length := by
  induction ps generalizing s with
  | nil => rfl
  | cons p ps ih =>
    rw [List.foldl_cons, ih, State.perform_responses_length, ← List.countP_eq_length_filter,
      ← List.countP_eq_length_filter, List.countP_cons]
    omega

theorem foldl_perform_meetsInvariants {s : State} {stream : List Byte} (h : s.MeetsInvariants Config.mixer stream) :
    (ps.foldl State.perform s).MeetsInvariants Config.mixer
      (ps.foldl (fun bytes p => streamAfter bytes p.1) stream) := by
  induction ps generalizing s stream with
  | nil => exact h
  | cons p ps ih => exact ih (after_meetsInvariants p.1 (h.of_registers_eq rfl))

/-- Commands read nothing of what the ports keep, so what they leave inside is the same whatever it was. -/
theorem foldl_perform_atPorts (es es' : List HostEvent) (r r' : Option Word) (c c' : Nat) :
    (ps.foldl State.perform (s.atPorts es r c)).atPorts es' r' c' = (ps.foldl State.perform s).atPorts es' r' c' := by
  induction ps generalizing s r with
  | nil => rfl
  | cons p ps ih =>
    have hp : (s.atPorts es r c).perform p =
        (s.perform p).atPorts es (if p.1.responds then (s.perform p).rsp else r) c :=
      after_atPorts p.1 (s.withSeedI p.2) es r c
    rw [List.foldl_cons, List.foldl_cons, hp, ih]

end perform

/-- Under one level on seed_i a list of commands is what it is without the port. -/
theorem foldl_perform_of_level (is : List Instr) (v : Seed) (s : State) :
    ((is.map (·, v)).foldl State.perform s).withSeedI v = is.foldl (fun s i => after i s) (s.withSeedI v) := by
  induction is generalizing s with
  | nil => rfl
  | cons i is ih =>
    have hkeeps : (s.perform (i, v)).withSeedI v = after i (s.withSeedI v) :=
      congrArg (fun u : Seed => (s.perform (i, v)).withSeedI u) (after_seedI i (s.withSeedI v)).symm
    rw [List.map_cons, List.foldl_cons, List.foldl_cons, ih, hkeeps]

/-! ## The words of a program -/

/-- The command word of a command, with its level on seed_i (R86). -/
def commandWord (p : Instr × Seed) : CmdWord × Seed := (encode p.1, p.2)

/-- Words that decode to commands are the commands' words: a command has one word (R83). -/
theorem eq_map_commandWord {program : List (CmdWord × Seed)} {ps : List (Instr × Seed)}
    (h : program.map (fun p => (decode p.1, p.2)) = ps.map (fun p => (.legal p.1, p.2))) :
    program = ps.map commandWord := by
  induction program generalizing ps with
  | nil => cases ps with
    | nil => rfl
    | cons => cases h
  | cons q program ih => cases ps with
    | nil => cases h
    | cons p ps =>
      obtain ⟨hq, hprogram⟩ := List.cons.inj h
      obtain ⟨hd, hv⟩ := Prod.mk.inj hq
      rw [List.map_cons, ← ih hprogram]
      exact congrArg (· :: program) (Prod.ext (encode_of_decode hd).symm hv)

/-- A program is the words of commands, or has a first illegal word. -/
theorem program_cases (program : List (CmdWord × Seed)) :
    (∃ ps : List (Instr × Seed), program = ps.map commandWord) ∨
    (∃ (ps : List (Instr × Seed)) (w : CmdWord) (v : Seed) (r : IllegalReason) (post : List (CmdWord × Seed)),
      decode w = .illegal r ∧ program = ps.map commandWord ++ (w, v) :: post) := by
  induction program with
  | nil => exact .inl ⟨[], rfl⟩
  | cons q program ih =>
    obtain ⟨w, v⟩ := q
    cases hd : decode w with
    | illegal r => exact .inr ⟨[], w, v, r, program, hd, rfl⟩
    | legal i =>
      obtain rfl := encode_of_decode hd
      obtain ⟨ps, rfl⟩ | ⟨ps, w', v', r, post, hd', rfl⟩ := ih
      · exact .inl ⟨(i, v) :: ps, rfl⟩
      · exact .inr ⟨(i, v) :: ps, w', v', r, post, hd', rfl⟩

theorem exists_commands_of_legal {program : List (CmdWord × Seed)}
    (h : ∀ p ∈ program, ∃ i : Instr, decode p.1 = .legal i) :
    ∃ ps : List (Instr × Seed), program = ps.map commandWord := by
  obtain hps | ⟨ps, w, v, r, post, hd, rfl⟩ := program_cases program
  · exact hps
  · obtain ⟨i, hi⟩ := h (w, v) (by simp)
    rw [hd] at hi
    cases hi

theorem hostEvents_cons_illegal {w : CmdWord} {r : IllegalReason} (hd : decode w = .illegal r) (v : Seed)
    (post : List (CmdWord × Seed)) : hostEvents ((w, v) :: post) = .command w v :: hostEvents post := by
  simp [wordEvents, answers, hd]

/-- The host of a program never moves rst_ni next (R249). -/
theorem head_hostEvents (program : List (CmdWord × Seed)) :
    ∀ e : HostEvent, (hostEvents program).head? = some e → e ≠ .rstFall ∧ ∀ v : Seed, e ≠ .rstRise v := by
  cases program with
  | nil => simp
  | cons p program => simp [wordEvents]

/-! ## The steps over the words of commands -/

/-- The step that accepts the word of a command performs it; of the port it writes the response, when it answers (R71, R75). -/
theorem step_commandWord {s : State} {p : Instr × Seed} {rest : List HostEvent} (h : ready s (encode p.1) p.2 rest) :
    step s = .next
      ((s.perform p).atPorts rest (if p.1.responds then (s.perform p).rsp else none) (s.cmdIndex + 1)) := by
  have hports : s.accept p.2 rest = (s.withSeedI p.2).atPorts rest none (s.cmdIndex + 1) := by
    obtain ⟨-, -, hrsp, -⟩ := h
    rw [← hrsp]
    rfl
  rw [step_of_ready_of_legal h (decode_encode p.1), exec_after, hports, after_atPorts]
  rfl

theorem wordEvents_commandWord (p : Instr × Seed) :
    wordEvents (commandWord p) = .command (encode p.1) p.2 :: if p.1.responds then [.takeResponse] else [] := by
  rw [wordEvents, commandWord, answers_encode]

/-- One command through the port: its word is accepted, and its response taken where there is one (R71, R74). -/
theorem steps_wordEvents {s : State} {p : Instr × Seed} {rest : List HostEvent}
    (he : s.events = wordEvents (commandWord p) ++ rest) (hrstN : s.rstN = true) (hrsp : s.rsp = none)
    (hfault : s.fault = none) :
    steps (wordEvents (commandWord p)).length s = .next ((s.perform p).atPorts rest none (s.cmdIndex + 1)) := by
  rw [wordEvents_commandWord] at he ⊢
  have hstep := step_commandWord ⟨he, hrstN, hrsp, hfault⟩
  cases hi : p.1.responds with
  | false =>
    simp only [hi] at hstep
    exact steps_of_step hstep 0
  | true =>
    simp only [hi] at hstep
    have hunmarked : ((s.perform p).atPorts (.takeResponse :: rest) (s.perform p).rsp (s.cmdIndex + 1)).fault = none :=
      (s.perform_fault p).trans hfault
    exact (steps_of_step hstep 1).trans (steps_of_step (step_takeResponse rfl hunmarked) 0)

/-- The commands at the head of the host's list are performed one after another, and every response is taken (R249). -/
theorem steps_commands (ps : List (Instr × Seed)) {s : State} {rest : List HostEvent}
    (he : s.events = hostEvents (ps.map commandWord) ++ rest) (hrstN : s.rstN = true) (hrsp : s.rsp = none)
    (hfault : s.fault = none) :
    steps (hostEvents (ps.map commandWord)).length s =
      .next ((ps.foldl State.perform s).atPorts rest none (s.cmdIndex + ps.length)) := by
  induction ps generalizing s with
  | nil =>
    subst he
    rw [← hrsp]
    rfl
  | cons p ps ih =>
    rw [List.map_cons, hostEvents_cons] at he ⊢
    rw [List.append_assoc] at he
    have hrest := ih (s := (s.perform p).atPorts (hostEvents (ps.map commandWord) ++ rest) none (s.cmdIndex + 1)) rfl
      ((s.perform_rstN p).trans hrstN) rfl ((s.perform_fault p).trans hfault)
    rw [List.length_append, steps_add (steps_wordEvents he hrstN hrsp hfault), hrest, foldl_perform_atPorts, List.foldl_cons,
      List.length_cons, Nat.add_comm ps.length, ← Nat.add_assoc]
    rfl

/-! ## Valid ends -/

/-- A block that a step leaves as it is stays so. -/
theorem steps_of_step_self {s : State} (h : step s = .next s) (n : Nat) : steps n s = .next s := by
  induction n with
  | zero => rfl
  | succ n ih => rw [steps_of_step h, ih]

/-- A run that has a valid end still has it after any steps: the end is left by no step. -/
theorem State.RunsTo.of_steps {s t u : State} (h : s.RunsTo t) {m : Nat} (hm : steps m s = .next u) : u.RunsTo t := by
  obtain ⟨n, hn, hvalid⟩ := h
  obtain ⟨he, -, hfault⟩ := t.validEnd_iff.1 hvalid
  refine ⟨n, ?_, hvalid⟩
  rw [← steps_add hm, Nat.add_comm, steps_add hn, steps_idle he hfault]

theorem State.RunsTo.unique {s t u : State} (ht : s.RunsTo t) (hu : s.RunsTo u) : t = u := by
  obtain ⟨m, hm, hvalid⟩ := hu
  obtain ⟨he, -, hfault⟩ := u.validEnd_iff.1 hvalid
  obtain ⟨n, hn, -⟩ := ht.of_steps hm
  rw [steps_idle he hfault] at hn
  cases hn
  rfl

/-- A marked block that is not released reaches no valid end (R212). -/
theorem not_runsTo_of_marked {s : State} {f : FaultRecord} (hfault : s.fault = some f)
    (hreset : ∀ e : HostEvent, s.events.head? = some e → e ≠ .rstFall ∧ ∀ v : Seed, e ≠ .rstRise v) (t : State) :
    ¬ s.RunsTo t := by
  rintro ⟨n, hn, hvalid⟩
  obtain ⟨-, -, hunmarked⟩ := t.validEnd_iff.1 hvalid
  cases n with
  | zero =>
    cases hn
    rw [hunmarked] at hfault
    cases hfault
  | succ n => simp [steps, step_of_marked hfault hreset] at hn

theorem runsTo_of_endState {program : List (CmdWord × Seed)} {s t : State} (h : endState program s = some t) :
    (s.load program).RunsTo t := ⟨_, endState_eq_some.1 h⟩

/-! ## Runs from a launch -/

section launch
variable {s : State} (hs : s.IsLaunch) (ps : List (Instr × Seed))
include hs

/-- The run of commands' words ends, in what the commands do one after another (R249). -/
theorem endState_commands : endState (ps.map commandWord) s =
    some ((ps.foldl State.perform s).atPorts [] none (s.cmdIndex + ps.length)) := by
  obtain ⟨hrstN, hrsp, hfault, -⟩ := hs.ready
  have hrun := steps_commands ps (s := s.load (ps.map commandWord)) (List.append_nil _).symm hrstN hrsp hfault
  refine endState_eq_some.2 ⟨hrun.trans (congrArg _ ?_), (State.validEnd_iff _).2 ⟨rfl, rfl, ?_⟩⟩
  · exact foldl_perform_atPorts ps s (hostEvents (ps.map commandWord)) [] s.rsp none s.cmdIndex _
  · exact (foldl_perform_fault ps s).trans hfault

/-- The run of a program with an illegal word reaches a marked block with the words after it still to come (R212). -/
theorem steps_to_mark {w : CmdWord} {r : IllegalReason} (hd : decode w = .illegal r) (v : Seed)
    (post : List (CmdWord × Seed)) : ∃ (n : Nat) (t : State),
      steps n (s.load (ps.map commandWord ++ (w, v) :: post)) = .next t ∧ t.fault = some ⟨r, w⟩ ∧
        t.events = hostEvents post := by
  obtain ⟨hrstN, hrsp, hfault, -⟩ := hs.ready
  have hevents : (s.load (ps.map commandWord ++ (w, v) :: post)).events =
      hostEvents (ps.map commandWord) ++ .command w v :: hostEvents post := by
    rw [State.load_events, hostEvents_append, hostEvents_cons_illegal hd]
  have hrun := steps_commands ps hevents hrstN hrsp hfault
  have hready : ready ((ps.foldl State.perform (s.load (ps.map commandWord ++ (w, v) :: post))).atPorts
      (.command w v :: hostEvents post) none (s.cmdIndex + ps.length)) w v (hostEvents post) :=
    ⟨rfl, (foldl_perform_rstN ps _).trans hrstN, rfl, (foldl_perform_fault ps _).trans hfault⟩
  exact ⟨_, _, (steps_add hrun 1).trans (steps_of_step (step_of_ready_of_illegal hready hd) 0), rfl, rfl⟩

theorem not_runsTo_of_illegal {w : CmdWord} {r : IllegalReason} (hd : decode w = .illegal r) (v : Seed)
    (post : List (CmdWord × Seed)) (t : State) : ¬ (s.load (ps.map commandWord ++ (w, v) :: post)).RunsTo t := by
  obtain ⟨n, u, hn, hmark, hevents⟩ := steps_to_mark hs ps hd v post
  exact fun h => not_runsTo_of_marked hmark (hevents ▸ head_hostEvents post) t (h.of_steps hn)

end launch

/-! ## The words of a message -/

/-- The commands of the test program: a CONSTRUCT with its seed, and then beats and a DIGEST with the host's idle level. -/
def messageCommands (v idle : Seed) (beats : List Instr) : List (Instr × Seed) :=
  (.construct, v) :: (beats.map (·, idle) ++ [(.digest, idle)])

theorem programWords_message {stream : List Byte} {beats : List Instr}
    (h : (AsmCmd.writeStr stream).instrs = some beats) (v idle : Seed) :
    programWords idle [.construct v, .writeStr stream, .digest] = some ((messageCommands v idle beats).map commandWord) := by
  have hconstruct : (AsmCmd.construct v).instrs = some [.construct] := rfl
  have hdigest : AsmCmd.digest.instrs = some [.digest] := rfl
  simp [programWords, AsmCmd.words, hconstruct, h, hdigest, messageCommands, commandWord, AsmCmd.seedLevel]

/-- Those commands leave the closed form of the stream and add its digest to the responses (R113, R149). -/
theorem foldl_perform_message {beats : List Instr} {stream : List Byte} (h : beatsOf beats stream) (v idle : Seed)
    (s : State) :
    ((messageCommands v idle beats).foldl State.perform s).registers = closedForm Config.mixer v stream ∧
    ((messageCommands v idle beats).foldl State.perform s).responses =
      s.responses ++ [Config.mixer.digestOf v stream] := by
  obtain ⟨hwrite, rfl⟩ := h
  have hfold : (messageCommands v idle beats).foldl State.perform s =
      after .digest (beats.foldl (fun s i => after i s) ((s.perform (.construct, v)).withSeedI idle)) := by
    rw [messageCommands, List.foldl_cons, List.foldl_concat, ← foldl_perform_of_level]
    rfl
  have hdone := WriteDone.of_beats hwrite ((s.perform (.construct, v)).withSeedI idle)
  have hregisters := hdone.registers_of_init ((s.withSeedI v).registers_construct Config.mixer v)
  rw [hfold, after, State.registers_respond, State.respond_responses, State.finalize_of_registers hregisters,
    hdone.responses]
  exact ⟨hregisters, rfl⟩

/-! ## The statements about runs (70_reset_and_hazards.md R246, R249) -/

/-- Settles O50: the run is the commands one after another, and each command that answers adds one response. -/
theorem runEndsAsItsCommandsDo : Obligations.RunEndsAsItsCommandsDo := by
  intro program ps s hs hdecode
  obtain rfl := eq_map_commandWord hdecode
  obtain ⟨-, -, hfault, -⟩ := hs.ready
  have hend := endState_commands hs ps
  exact ⟨_, _, hend, execProgram_foldl ps s, congrArg (Option.map State.observe) hend, rfl, rfl, rfl,
    (foldl_perform_fault ps s).trans hfault, by rw [List.length_map]; rfl, foldl_perform_responses_length ps s⟩

/-- Settles O51: the legal words are performed, the illegal one sets the mark, and the words after it find a marked block. -/
theorem markedRunHasNoEndState : Obligations.MarkedRunHasNoEndState := by
  intro pre post w v r s hs hpre hd
  obtain ⟨ps, rfl⟩ := exists_commands_of_legal hpre
  obtain ⟨n, t, hn, hmark, -⟩ := steps_to_mark hs ps hd v post
  have hnone := not_runsTo_of_illegal hs ps hd v post
  have hend : endState (ps.map commandWord ++ (w, v) :: post) s = none :=
    Option.eq_none_iff_forall_ne_some.2 fun u hu => hnone u (runsTo_of_endState hu)
  exact ⟨⟨n, t, hn, hmark⟩, hnone, hend, by rw [runObservation, hend]; rfl⟩

/-- Settles O52: a valid end is left by no step, so two of them are one; and a program either is the words of commands, and its run
ends, or has an illegal word, and its run has no valid end. -/
theorem endStateIsTheOnlyOne : Obligations.EndStateIsTheOnlyOne := by
  refine ⟨fun s t u ht hu => ht.unique hu, fun program s t hs => ⟨runsTo_of_endState, fun h => ?_⟩⟩
  obtain ⟨ps, rfl⟩ | ⟨ps, w, v, r, post, hd, rfl⟩ := program_cases program
  · have hend := endState_commands hs ps
    rw [hend, (runsTo_of_endState hend).unique h]
  · exact absurd h (not_runsTo_of_illegal hs ps hd v post t)

/-- Settles O53: the step that gives the response leaves a block that holds the next command off, and a held-off step is no
change. -/
theorem untakenResponseStallsForGood : Obligations.UntakenResponseStallsForGood := by
  intro s w w' v v' rest i hready hd hi
  have hstep : step s = .next (after i (s.accept v (.command w' v' :: rest))) :=
    (step_of_ready_of_legal hready hd).trans (exec_after i _)
  obtain ⟨-, -, -, hfault⟩ := hready
  obtain ⟨-, hkept, hevents, -, -⟩ := after_outside i (s.accept v (.command w' v' :: rest))
  obtain ⟨d, -, hafter⟩ := after_reader (Instr.responds_iff.1 hi) (s.accept v (.command w' v' :: rest))
  have hrsp : (after i (s.accept v (.command w' v' :: rest))).rsp = some d := by rw [hafter, State.respond_rsp]
  have hstall := steps_of_step_self
    (step_of_not_ready (hevents.trans rfl) (hkept.trans hfault) (by simp [State.cmdReady, hrsp]))
  refine ⟨⟨_, by simp [hrsp], hevents, fun n => (steps_of_step hstep n).trans (hstall n)⟩, fun t h => ?_⟩
  obtain ⟨n, hn, hvalid⟩ := h.of_steps (steps_of_step hstep 0)
  obtain ⟨-, hnone, -⟩ := t.validEnd_iff.1 hvalid
  cases (hstall n).symm.trans hn
  rw [hrsp] at hnone
  cases hnone

/-- Settles O55: each command takes the stream forward, and what the port keeps is no register. -/
theorem runLeavesTheStreamOfItsCommands : Obligations.RunLeavesTheStreamOfItsCommands := by
  intro program ps s stream hs hstream hdecode
  obtain rfl := eq_map_commandWord hdecode
  exact ⟨_, endState_commands hs ps, (foldl_perform_meetsInvariants ps hstream).of_registers_eq rfl⟩

/-- Settles O56: the program is the words of CONSTRUCT, the stream's beats and DIGEST, so its run ends in what they leave. -/
theorem runOfAMessageAnswersItsDigest : Obligations.RunOfAMessageAnswersItsDigest := by
  intro s idle v stream hs
  obtain ⟨beats, hinstrs, hbeats⟩ := beatsOf_writeStr stream
  obtain ⟨hregisters, hresponses⟩ := foldl_perform_message hbeats v idle s
  exact ⟨_, _, programWords_message hinstrs v idle, endState_commands hs _, hresponses, hregisters⟩

end Sys2Proof.Machine
